-- ==== Sys2Proof/Config.lean ====
section
/-! DEFINITION. The implementation parameters of spec/00_scope.md R8 that the model reads. The block has no free value (R50, spec/93_implementation_defined.md section 1). -/

namespace Sys2Proof.Config

/-- `BYTE_BITS`, the bits of one assembled byte (R8). -/
abbrev byteBits : Nat := 8

/-- The number of bit positions in `SEL_RANGE`, 0 to 7 (R8). -/
abbrev selPositions : Nat := 8

/-- The OPEN parameters `LABEL_ADDR_RADIX` and `LABEL_DATA_RADIX` (R8, R110, decision D20): how one number
of a host-side text label is written. Every definition that writes a label takes this as an argument, so no
value of it is chosen anywhere. D20 names the radix, the width and the prefix; the sign that fills the width and the
case of letter digits are arguments too, because N6 of spec/91_not_in_source.md says to assume no padding. What
is still the model's choice is in notes/assumptions/13.md. -/
structure NumberFormat where
  radix : Nat
  width : Nat
  lead : String
  fill : Char
  upper : Bool
  deriving DecidableEq, Repr

end Sys2Proof.Config
end

