-- ==== Sys2Proof/Word.lean ====
section
/-! DEFINITION. The fixed-width words of spec/30_encoding.md R51, the decode word as named bits, and a row of the opcode table. -/

namespace Sys2Proof

/-- SW, the sample word `levels[7:0]` (R53). -/
abbrev Levels := BitVec 8
/-- A bit position of SCL or SDA inside `levels`; all eight values are legal (R32, R33, R54). -/
abbrev Sel := BitVec 3
/-- CW, the control word, `rst` above `sample_valid` (R52). -/
abbrev Cw := BitVec 2
/-- CFG, the configuration word, `scl_sel` above `sda_sel` (R54). -/
abbrev Cfg := BitVec 6
/-- DW, the decode word (R55). -/
abbrev Dw := BitVec 6
/-- EV, the event word: `ev_code`, `ev_kind`, `ev_byte` from the top (R51). -/
abbrev Ev := BitVec 12

/-- The six one-bit quantities of a decode word, DW[5] first (R55). -/
structure DwBits where
  lastClk : Bool
  currentClk : Bool
  lastSda : Bool
  currentSda : Bool
  bz : Bool
  addressPhase : Bool
  deriving DecidableEq, Repr

/-- What the block decodes, by format (R51): the words on its input ports at one edge of `clk`
(CW selects the cycle operation, SW and CFG are SAMPLE's operand words), or the internal decode word
of a SAMPLE step. -/
inductive CodeWord where
  | pins (cw : Cw) (sw : Levels) (cfg : Cfg)
  | dw (w : Dw)
  deriving DecidableEq, Repr

/-- The two formats of the rows of `opcode_table.json` (R67). -/
inductive Format where
  | cw
  | dw
  deriving DecidableEq, Repr

/-- One row of `opcode_table.json`: a word `w` of the row's format belongs to the row when
`w &&& mask = value` (R56, R67). -/
structure OpcodeRow where
  mnemonic : String
  format : Format
  value : Nat
  mask : Nat
  deriving DecidableEq, Repr

/-- Why a number is not a word of the opcode table. -/
inductive NumberReject where
  /-- The number is said to have no bits at all. -/
  | noBits
  /-- A bit stands where the word's format has none. -/
  | tooWide
  deriving DecidableEq, Repr

end Sys2Proof
end

