-- ==== Sys2Proof/Syntax.lean ====
section
/-! DEFINITION. The operations of the block: one constructor per row of spec/opcode_table.json, in the table's order. -/

namespace Sys2Proof

/-- The rows of R56 (the operation a SAMPLE step performs, format DW) and of R52 (the operation a rising
edge of `clk` performs, format CW). The arguments of a DW row are the decode-word bits that the row
does not test, under their names of R55; those of `reset` and `sample` are the input-port values that
the control word leaves free (R52) and that R104 names as SAMPLE's operands. -/
inductive Instr where
  | start (bz addressPhase : Bool)
  | bit1 (addressPhase : Bool)
  | nackAddr
  | nackData
  | bit0 (addressPhase : Bool)
  | ackAddr
  | ackData
  | riseSdaFall (bz addressPhase : Bool)
  | riseSdaRise (bz addressPhase : Bool)
  | stop (bz addressPhase : Bool)
  | sclLow (lastSda currentSda bz addressPhase : Bool)
  | sclFall (lastSda currentSda bz addressPhase : Bool)
  | sclHighSdaLow (bz addressPhase : Bool)
  | sclHighSdaHigh (bz addressPhase : Bool)
  | reset (sampleValid : Bool)
  | idle
  | sample (levels : Levels) (sclSel sdaSel : Sel)
  deriving DecidableEq, Repr

end Sys2Proof
end

