-- ==== Sys2Proof/WellFormed.lean ====
section
/-! DEFINITION. What makes an instruction, and a host's configuration, well-formed. -/

namespace Sys2Proof

/-- Every operation is well-formed: no input is illegal or reserved (R58), and a select outside 0 to 7
cannot be encoded in three bits (R54), so the field widths leave nothing to check. -/
def Instr.wellFormed : Instr → Bool
  | .start _ _ => true
  | .bit1 _ => true
  | .nackAddr => true
  | .nackData => true
  | .bit0 _ => true
  | .ackAddr => true
  | .ackData => true
  | .riseSdaFall _ _ => true
  | .riseSdaRise _ _ => true
  | .stop _ _ => true
  | .sclLow _ _ _ _ => true
  | .sclFall _ _ _ _ => true
  | .sclHighSdaLow _ _ => true
  | .sclHighSdaHigh _ _ => true
  | .reset _ => true
  | .idle => true
  | .sample _ _ _ => true

/-- The two bit indices a host is given on its command line, before they become port values (R115). -/
structure HostConfig where
  clkBitIndex : Nat
  sdaBitIndex : Nat
  deriving DecidableEq, Repr

/-- The range check that R54 and R115 make a duty of the host: each index is in 0 to 7. -/
def HostConfig.inRange (c : HostConfig) : Bool :=
  decide (c.clkBitIndex < Config.selPositions) && decide (c.sdaBitIndex < Config.selPositions)

/-- The bus macros are defined only for distinct positions (R65). -/
def HostConfig.distinct (c : HostConfig) : Bool :=
  decide (c.clkBitIndex ≠ c.sdaBitIndex)

/-- The port values of a configuration; an index out of range is refused, never truncated
(R115, spec/93_implementation_defined.md I10). -/
def HostConfig.selects (c : HostConfig) : Option (Sel × Sel) :=
  if c.inRange then some (BitVec.ofNat 3 c.clkBitIndex, BitVec.ofNat 3 c.sdaBitIndex) else none

end Sys2Proof
end

