-- ==== Sys2Proof/Decode.lean ====
section
/-! DEFINITION. Decoding of the input words and of the decode word, the encoder, and the opcode table (spec/30_encoding.md). -/

namespace Sys2Proof

/-! ## Words and their fields -/

/-- CW from its two ports (R52). -/
def cwWord (rst sampleValid : Bool) : Cw := BitVec.ofBool rst ++ BitVec.ofBool sampleValid

/-- CFG from its two ports (R54). -/
def cfgWord (sclSel sdaSel : Sel) : Cfg := sclSel ++ sdaSel

/-- DW from its six bits (R55). -/
def DwBits.word (b : DwBits) : Dw :=
  BitVec.ofBool b.lastClk ++ BitVec.ofBool b.currentClk ++ BitVec.ofBool b.lastSda
    ++ BitVec.ofBool b.currentSda ++ BitVec.ofBool b.bz ++ BitVec.ofBool b.addressPhase

/-- The six bits of a decode word (R55). -/
def dwBits (w : Dw) : DwBits where
  lastClk := w.getLsbD 5
  currentClk := w.getLsbD 4
  lastSda := w.getLsbD 3
  currentSda := w.getLsbD 2
  bz := w.getLsbD 1
  addressPhase := w.getLsbD 0

/-! ## Decoding -/

/-- The opcode map over the decode word, row by row in the order of R56. -/
def rowOf : DwBits → Instr
  | ⟨true, true, true, false, bz, ap⟩ => .start bz ap
  | ⟨false, true, true, true, false, ap⟩ => .bit1 ap
  | ⟨false, true, true, true, true, true⟩ => .nackAddr
  | ⟨false, true, true, true, true, false⟩ => .nackData
  | ⟨false, true, false, false, false, ap⟩ => .bit0 ap
  | ⟨false, true, false, false, true, true⟩ => .ackAddr
  | ⟨false, true, false, false, true, false⟩ => .ackData
  | ⟨false, true, true, false, bz, ap⟩ => .riseSdaFall bz ap
  | ⟨false, true, false, true, bz, ap⟩ => .riseSdaRise bz ap
  | ⟨true, true, false, true, bz, ap⟩ => .stop bz ap
  | ⟨false, false, ls, cs, bz, ap⟩ => .sclLow ls cs bz ap
  | ⟨true, false, ls, cs, bz, ap⟩ => .sclFall ls cs bz ap
  | ⟨true, true, false, false, bz, ap⟩ => .sclHighSdaLow bz ap
  | ⟨true, true, true, true, bz, ap⟩ => .sclHighSdaHigh bz ap

/-- The cycle operation that the control word selects (R52); SAMPLE takes its operands from SW and CFG (R104). -/
def decodePins (cw : Cw) (sw : Levels) (cfg : Cfg) : Instr :=
  if cw.getLsbD 1 then .reset (cw.getLsbD 0)
  else if cw.getLsbD 0 then .sample sw (cfg.extractLsb' 3 3) (cfg.extractLsb' 0 3)
  else .idle

/-- The decoder. It rejects nothing: no input word and no decode word is illegal or reserved (R58). -/
def decode : CodeWord → Instr
  | .pins cw sw cfg => decodePins cw sw cfg
  | .dw w => rowOf (dwBits w)

/-! ## Encoding -/

/-- The words of an operation, from the encoding column of R56 and from R52 to R54. An operation that
reads no operand word is given operand words of zeros. -/
def encode : Instr → CodeWord
  | .start bz ap => .dw (DwBits.word ⟨true, true, true, false, bz, ap⟩)
  | .bit1 ap => .dw (DwBits.word ⟨false, true, true, true, false, ap⟩)
  | .nackAddr => .dw (DwBits.word ⟨false, true, true, true, true, true⟩)
  | .nackData => .dw (DwBits.word ⟨false, true, true, true, true, false⟩)
  | .bit0 ap => .dw (DwBits.word ⟨false, true, false, false, false, ap⟩)
  | .ackAddr => .dw (DwBits.word ⟨false, true, false, false, true, true⟩)
  | .ackData => .dw (DwBits.word ⟨false, true, false, false, true, false⟩)
  | .riseSdaFall bz ap => .dw (DwBits.word ⟨false, true, true, false, bz, ap⟩)
  | .riseSdaRise bz ap => .dw (DwBits.word ⟨false, true, false, true, bz, ap⟩)
  | .stop bz ap => .dw (DwBits.word ⟨true, true, false, true, bz, ap⟩)
  | .sclLow ls cs bz ap => .dw (DwBits.word ⟨false, false, ls, cs, bz, ap⟩)
  | .sclFall ls cs bz ap => .dw (DwBits.word ⟨true, false, ls, cs, bz, ap⟩)
  | .sclHighSdaLow bz ap => .dw (DwBits.word ⟨true, true, false, false, bz, ap⟩)
  | .sclHighSdaHigh bz ap => .dw (DwBits.word ⟨true, true, true, true, bz, ap⟩)
  | .reset sampleValid => .pins (cwWord true sampleValid) 0 0
  | .idle => .pins (cwWord false false) 0 0
  | .sample levels sclSel sdaSel => .pins (cwWord false true) levels (cfgWord sclSel sdaSel)

/-! ## The opcode table -/

/-- The row of `opcode_table.json` that an operation belongs to (R56, R67). -/
def Instr.opcodeRow : Instr → OpcodeRow
  | .start _ _ => ⟨"START", .dw, 0x38, 0x3C⟩
  | .bit1 _ => ⟨"BIT1", .dw, 0x1C, 0x3E⟩
  | .nackAddr => ⟨"NACK_ADDR", .dw, 0x1F, 0x3F⟩
  | .nackData => ⟨"NACK_DATA", .dw, 0x1E, 0x3F⟩
  | .bit0 _ => ⟨"BIT0", .dw, 0x10, 0x3E⟩
  | .ackAddr => ⟨"ACK_ADDR", .dw, 0x13, 0x3F⟩
  | .ackData => ⟨"ACK_DATA", .dw, 0x12, 0x3F⟩
  | .riseSdaFall _ _ => ⟨"RISE_SDA_FALL", .dw, 0x18, 0x3C⟩
  | .riseSdaRise _ _ => ⟨"RISE_SDA_RISE", .dw, 0x14, 0x3C⟩
  | .stop _ _ => ⟨"STOP", .dw, 0x34, 0x3C⟩
  | .sclLow _ _ _ _ => ⟨"SCL_LOW", .dw, 0x00, 0x30⟩
  | .sclFall _ _ _ _ => ⟨"SCL_FALL", .dw, 0x20, 0x30⟩
  | .sclHighSdaLow _ _ => ⟨"SCL_HIGH_SDA_LOW", .dw, 0x30, 0x3C⟩
  | .sclHighSdaHigh _ _ => ⟨"SCL_HIGH_SDA_HIGH", .dw, 0x3C, 0x3C⟩
  | .reset _ => ⟨"RESET", .cw, 0x2, 0x2⟩
  | .idle => ⟨"IDLE", .cw, 0x0, 0x3⟩
  | .sample _ _ _ => ⟨"SAMPLE", .cw, 0x1, 0x3⟩

/-- The whole opcode table, one row per operation (R67). -/
def opcodeTable : List OpcodeRow :=
  [Instr.opcodeRow (.start false false), Instr.opcodeRow (.bit1 false), Instr.opcodeRow .nackAddr,
   Instr.opcodeRow .nackData, Instr.opcodeRow (.bit0 false), Instr.opcodeRow .ackAddr,
   Instr.opcodeRow .ackData, Instr.opcodeRow (.riseSdaFall false false),
   Instr.opcodeRow (.riseSdaRise false false), Instr.opcodeRow (.stop false false),
   Instr.opcodeRow (.sclLow false false false false), Instr.opcodeRow (.sclFall false false false false),
   Instr.opcodeRow (.sclHighSdaLow false false), Instr.opcodeRow (.sclHighSdaHigh false false),
   Instr.opcodeRow (.reset false), Instr.opcodeRow .idle, Instr.opcodeRow (.sample 0 0 0)]

/-- The format of a code word and the number its row is matched against: CW or DW. -/
def CodeWord.tableWord : CodeWord → Format × Nat
  | .pins cw _ _ => (.cw, cw.toNat)
  | .dw w => (.dw, w.toNat)

/-- A code word belongs to a row: same format, and the masked word is the row's value (R56). -/
def OpcodeRow.accepts (r : OpcodeRow) (c : CodeWord) : Bool :=
  decide (c.tableWord.1 = r.format) && decide (c.tableWord.2 &&& r.mask = r.value)

/-! ## Table numbers

`opcode_table.json` numbers a word without saying its format, and every CW word is also the number of a
DW word of row SCL_LOW. The reading chosen (notes/assumptions/4.md, DESIGN CHOICE): a number said to have fewer
than six bits is a CW; one said to have six or seven is a DW; one said to fill whole bytes is a CW when
its first byte is below 4 and a DW otherwise. The second byte is SW and the third CFG. -/

/-- The code word of a table number. -/
def codeOfNumber (nbits w : Nat) : Except NumberReject CodeWord :=
  let first := w % 256
  if nbits = 0 then .error .noBits
  else if nbits < 6 ∨ (8 ≤ nbits ∧ first < 4) then
    if first < 4 ∧ w / 65536 < 64 then
      .ok (.pins (BitVec.ofNat 2 first) (BitVec.ofNat 8 (w / 256)) (BitVec.ofNat 6 (w / 65536)))
    else .error .tooWide
  else if w < 64 then .ok (.dw (BitVec.ofNat 6 w))
  else .error .tooWide

/-- The operation of a table number, rejecting by name. -/
def decodeNumber (nbits w : Nat) : Except NumberReject Instr :=
  (codeOfNumber nbits w).map decode

/-- The operation of a table number, `none` where the number is rejected. -/
def decodeTableWord (nbits w : Nat) : Option Instr :=
  match decodeNumber nbits w with
  | .ok i => some i
  | .error _ => none

end Sys2Proof
end

