-- ==== Sys2Proof/Machine/State.lean ====
section
/-! DEFINITION. The state of the block (spec/10_state.md R15), its ports, its events, and the ways a step can stop. -/

namespace Sys2Proof.Machine

/-! ## BusState (R16 to R20) -/

/-- The decoder's persistent state. -/
structure BusState where
  /-- SCL level of the previous sample (R16). -/
  lastClk : Bool
  /-- SDA level of the previous sample (R17). -/
  lastSda : Bool
  /-- Data bits still to be received in the current byte (R18). -/
  bitsRemaining : BitVec 4
  /-- The byte under construction (R19). -/
  value : BitVec 8
  /-- Set from a START until the next ACK (R20). -/
  addressPhase : Bool
  deriving DecidableEq, Repr

/-! ## Event output registers (R34) -/

/-- The registers behind `ev_valid`, `ev_code`, `ev_kind` and `ev_byte`. -/
structure EventRegs where
  valid : Bool
  code : BitVec 3
  kind : Bool
  byte : BitVec 8
  deriving DecidableEq, Repr

/-! ## Input ports (R27 to R33) -/

/-- The values on the input ports at one rising edge of `clk`. -/
structure Pins where
  rst : Bool
  sampleValid : Bool
  levels : Levels
  sclSel : Sel
  sdaSel : Sel
  deriving DecidableEq, Repr

/-! ## The whole state -/

/-- The block between two rising edges of `clk`. `bus` and `out` are all the state the spec gives it
(R15). The other two fields are the model's own: they say what the outside world does to the block. -/
structure State where
  bus : BusState
  out : EventRegs
  /-- Whether a RESET has happened yet: before the first one the state is unspecified and a model does
  not step it (R129; notes/assumptions/2.md). -/
  resetSeen : Bool
  /-- The input-port values of the edges to come, next edge first (notes/assumptions/1.md). -/
  inputs : List Pins
  deriving DecidableEq, Repr

/-! ## Events (R13) -/

/-- The direction bit of an address byte: 1 is Read (R44). -/
inductive Direction where
  | read
  | write
  deriving DecidableEq, Repr

/-- What an acknowledged byte is decoded to (R93). -/
inductive Payload where
  | address (address : BitVec 7) (direction : Direction)
  | data (value : BitVec 8)
  deriving DecidableEq, Repr

/-- The event of one sample. The reserved code 7 is left out (R63). -/
inductive Event where
  | none
  | start
  | bit (level : Bool)
  | ack (payload : Payload)
  | nack (payload : Payload)
  | stop
  deriving DecidableEq, Repr

/-- The edge detector's six results (R68). -/
structure EdgeInfo where
  currentClk : Bool
  currentSda : Bool
  clkRising : Bool
  clkFalling : Bool
  sdaRising : Bool
  sdaFalling : Bool
  deriving DecidableEq, Repr

/-- The output ports (R27). -/
structure Outputs where
  evValid : Bool
  evCode : BitVec 3
  evKind : Bool
  evByte : BitVec 8
  evAddr : BitVec 7
  evDir : Bool
  stLastClk : Bool
  stLastSda : Bool
  stBitsRemaining : BitVec 4
  stValue : BitVec 8
  stAddressPhase : Bool
  deriving DecidableEq, Repr

/-! ## How a step can stop -/

/-- Faults. The block raises none (R113), so no step answers one. -/
inductive Fault where
  /-- Raised only by `EventRegs.read`, the host-side reader of the event outputs, when `ev_code` is the
  reserved 7, which R63 and spec/93_implementation_defined.md I5 call a fault of the block. Safe: the
  block never drives 7, and no step of the model raises it. -/
  | reservedEventCode
  deriving DecidableEq, Repr

/-- Refusals: the states and words the spec tells a model not to step. -/
inductive Refusal where
  /-- Raised by `exec` for an instruction that has no meaning yet; no arm raises it now. Safe. -/
  | notModelled (mnemonic : String)
  /-- Raised by IDLE, SAMPLE and every DW row in a state that no RESET has preceded: "A model does not step
  the block from any state except one reached from RESET" (R129). Safe. -/
  | beforeFirstReset
  /-- Raised by IDLE, SAMPLE and every DW row when `bitsRemaining` is 9 to 15: "A model must not step such a
  state: it refuses the step" (R21). Safe: no run reaches such a state. -/
  | bitsRemainingOutOfRange
  /-- Raised by a DW row run on its own in a state whose own decode-word bits are not the ones in the
  row's word. A SAMPLE step performs only the row that its DW selects (R56, R77), so no step raises it. Safe. -/
  | rowNotSelected
  deriving DecidableEq, Repr

/-! ## Reset values (R126) -/

/-- BusState after RESET (R16 to R20, R126). -/
def BusState.reset : BusState where
  lastClk := true
  lastSda := true
  bitsRemaining := 0
  value := 0
  addressPhase := false

/-- The event registers after RESET (R34, R126). -/
def EventRegs.reset : EventRegs where
  valid := false
  code := 0
  kind := false
  byte := 0

/-- The block right after a RESET edge, with no input values presented yet. -/
def State.reset : State where
  bus := BusState.reset
  out := EventRegs.reset
  resetSeen := true
  inputs := []

end Sys2Proof.Machine
end

