-- ==== Sys2Proof/Machine/Operands.lean ====
section
/-! DEFINITION. Operand forms: the selected line levels, the input words of an edge, the decode word of a state. -/

namespace Sys2Proof.Machine

/-- `levels[sel]`, the level of the selected pin (R42, R69, R70). -/
def lineLevel (levels : Levels) (sel : Sel) : Bool := levels.getLsbD sel.toNat

/-- The four state bits and two current levels that a decode word packs (R55). -/
def BusState.decodeBits (b : BusState) (currentClk currentSda : Bool) : DwBits where
  lastClk := b.lastClk
  currentClk := currentClk
  lastSda := b.lastSda
  currentSda := currentSda
  bz := decide (b.bitsRemaining = 0)
  addressPhase := b.addressPhase

/-- The words on the input ports at an edge (R52 to R54). -/
def Pins.code (p : Pins) : CodeWord :=
  .pins (cwWord p.rst p.sampleValid) p.levels (cfgWord p.sclSel p.sdaSel)

/-- The input-port values that three input words stand for (R52 to R54). -/
def pinsOf (cw : Cw) (sw : Levels) (cfg : Cfg) : Pins where
  rst := cw.getLsbD 1
  sampleValid := cw.getLsbD 0
  levels := sw
  sclSel := cfg.extractLsb' 3 3
  sdaSel := cfg.extractLsb' 0 3

/-- A cycle in which the host asserts nothing. Its other inputs are not read (R103). -/
def Pins.quiet : Pins where
  rst := false
  sampleValid := false
  levels := 0
  sclSel := 0
  sdaSel := 0

/-- A SAMPLE cycle. -/
def Pins.ofSample (levels : Levels) (sclSel sdaSel : Sel) : Pins where
  rst := false
  sampleValid := true
  levels := levels
  sclSel := sclSel
  sdaSel := sdaSel

/-- The direction that bit 0 of an address byte gives (R44, R93). -/
def directionOf (b : Bool) : Direction := if b then .read else .write

/-- The direction as the bit `ev_dir` (R35). -/
def Direction.toBool : Direction → Bool
  | .read => true
  | .write => false

/-- The byte as address and direction: `value[7:1]` and `value[0]` (R44, R93). -/
def BusState.addressPayload (b : BusState) : Payload :=
  .address (b.value.extractLsb' 1 7) (directionOf (b.value.getLsbD 0))

/-- The byte as plain data (R93). -/
def BusState.dataPayload (b : BusState) : Payload := .data b.value

/-- The acknowledgement decode of R93, chosen by `addressPhase` before the step. -/
def BusState.decodeByte (b : BusState) : Payload :=
  if b.addressPhase then b.addressPayload else b.dataPayload

end Sys2Proof.Machine
end

