-- ==== Sys2Proof/Machine/Flags.lean ====
section
/-! DEFINITION. The edge detector (spec/40_edge_detector.md): the flags a SAMPLE step computes anew (R26). -/

namespace Sys2Proof.Machine

/-- A line went from low to high: `!last && current` (R71, R73). -/
def rising (last current : Bool) : Bool := !last && current

/-- A line went from high to low: `last && !current` (R72, R74). -/
def falling (last current : Bool) : Bool := last && !current

/-- The edge detector: a pure function of its five inputs (R68 to R74). -/
def BusState.detectEdges (b : BusState) (levels : Levels) (sclSel sdaSel : Sel) : EdgeInfo :=
  let currentClk := lineLevel levels sclSel
  let currentSda := lineLevel levels sdaSel
  { currentClk := currentClk
    currentSda := currentSda
    clkRising := rising b.lastClk currentClk
    clkFalling := falling b.lastClk currentClk
    sdaRising := rising b.lastSda currentSda
    sdaFalling := falling b.lastSda currentSda }

end Sys2Proof.Machine
end

