-- ==== Sys2Proof/Machine/Ops.lean ====
section
/-! DEFINITION. The named operations on the state: what the meanings of the opcode rows are made of. The block has no memory (R39) and takes no exception (R113, R118), so there is no operation for either. -/

namespace Sys2Proof.Machine

/-- What a meaning answers. -/
abbrev Result := Host.Outcome State Fault Refusal

/-! ## Updates of BusState -/

/-- Arm a new byte: `value <- 0`, `bitsRemaining <- 8`, and the address phase as given (R79, R84, R85). -/
def BusState.openByte (b : BusState) (addressPhase : Bool) : BusState :=
  { b with value := 0, bitsRemaining := BitVec.ofNat 4 Config.byteBits, addressPhase := addressPhase }

/-- Count one data bit off the current byte (R80, R83). -/
def BusState.countBit (b : BusState) : BusState :=
  { b with bitsRemaining := b.bitsRemaining - 1 }

/-- `value | (1 << n)`, in eight bits (R80). -/
def BusState.orBit (b : BusState) (n : Nat) : BusState :=
  { b with value := b.value ||| (1#8 <<< n) }

/-- Receive a 1: count it, then set it at the position counted down to (R80, R43). -/
def BusState.receiveOne (b : BusState) : BusState :=
  b.countBit.orBit b.countBit.bitsRemaining.toNat

/-- The last-level update that ends every SAMPLE step (R78). -/
def BusState.setLevels (b : BusState) (currentClk currentSda : Bool) : BusState :=
  { b with lastClk := currentClk, lastSda := currentSda }

/-! ## Event output (R60 to R62, R105) -/

/-- The byte a payload was decoded from (R105). -/
def Payload.byte : Payload → BitVec 8
  | .address a d => a ++ BitVec.ofBool d.toBool
  | .data v => v

/-- 1 for an address, 0 for data (R61). -/
def Payload.kind : Payload → Bool
  | .address _ _ => true
  | .data _ => false

/-- `ev_code` (R60). -/
def Event.code : Event → BitVec 3
  | .none => 0
  | .start => 1
  | .bit false => 2
  | .bit true => 3
  | .ack _ => 4
  | .nack _ => 5
  | .stop => 6

/-- `ev_kind` (R61). -/
def Event.kind : Event → Bool
  | .none => false
  | .start => false
  | .bit _ => false
  | .ack p => p.kind
  | .nack p => p.kind
  | .stop => false

/-- `ev_byte` (R62). -/
def Event.byte : Event → BitVec 8
  | .none => 0
  | .start => 0
  | .bit _ => 0
  | .ack p => p.byte
  | .nack p => p.byte
  | .stop => 0

/-- The four event registers after the SAMPLE edge of an event (R104, R105). -/
def Event.record (e : Event) : EventRegs where
  valid := true
  code := e.code
  kind := e.kind
  byte := e.byte

/-- The event registers after an IDLE edge: only `ev_valid` drops (R103, R34). -/
def EventRegs.expire (r : EventRegs) : EventRegs := { r with valid := false }

/-! ## The guarded step -/

/-- Why the spec tells a model not to step this state, if it does: no RESET yet (R129), or a
`bitsRemaining` of 9 to 15 (R21). -/
def State.refusal (s : State) : Option Refusal :=
  if s.resetSeen = false then some .beforeFirstReset
  else if Config.byteBits < s.bus.bitsRemaining.toNat then some .bitsRemainingOutOfRange
  else none

/-- Answer `r` unless the state is one that a model refuses to step. -/
def State.guarded (s : State) (r : Result) : Result :=
  match s.refusal with
  | some why => .refused why
  | none => r

/-- Perform one row of R56 whose decode word is `d`: BusState becomes `b` with the current levels as the
new last levels (R78), and the event registers record `e` (R104). The row is performed only in a state
whose decode word is `d` (R56, R77). -/
def State.performRow (s : State) (d : DwBits) (b : BusState) (e : Event) : Result :=
  s.guarded
    (if s.bus.decodeBits d.currentClk d.currentSda = d then
      .next { s with bus := b.setLevels d.currentClk d.currentSda, out := e.record }
    else .refused .rowNotSelected)

/-! ## The input stream -/

/-- The input-port values at the next edge. Past the end of the stream the host asserts nothing, which is
an IDLE cycle (R109; notes/assumptions/1.md). -/
def State.fetch (s : State) : Pins :=
  match s.inputs with
  | [] => Pins.quiet
  | p :: _ => p

/-- The edge has passed: its input values are gone. -/
def State.advance (s : State) : State := { s with inputs := s.inputs.tail }

/-- The state in which the next edge performs the given operation. A cycle operation is put on the input
ports. A DW row is selected by state bits as well as by the sample (R55), so both are set:
`bitsRemaining` is changed only where it disagrees with the word's `bz`. -/
def State.withFetched (s : State) (i : Instr) : State :=
  match encode i with
  | .pins cw sw cfg => { s with inputs := pinsOf cw sw cfg :: s.inputs }
  | .dw w =>
    let d := dwBits w
    let left := if d.bz then 0
      else if s.bus.bitsRemaining = 0 then BitVec.ofNat 4 Config.byteBits
      else s.bus.bitsRemaining
    let sample := Pins.ofSample (0#6 ++ BitVec.ofBool d.currentSda ++ BitVec.ofBool d.currentClk) 0 1
    { s with
      bus := { s.bus with lastClk := d.lastClk, lastSda := d.lastSda, bitsRemaining := left,
                          addressPhase := d.addressPhase }
      inputs := sample :: s.inputs }

/-! ## Output ports (R34 to R36) -/

/-- The output ports: a function of the registers alone (R101). -/
def State.outputs (s : State) : Outputs where
  evValid := s.out.valid
  evCode := s.out.code
  evKind := s.out.kind
  evByte := s.out.byte
  evAddr := s.out.byte.extractLsb' 1 7
  evDir := s.out.byte.getLsbD 0
  stLastClk := s.bus.lastClk
  stLastSda := s.bus.lastSda
  stBitsRemaining := s.bus.bitsRemaining
  stValue := s.bus.value
  stAddressPhase := s.bus.addressPhase

/-- EV, the event word on the outputs (R51). -/
def EventRegs.word (r : EventRegs) : Ev := r.code ++ BitVec.ofBool r.kind ++ r.byte

/-- The payload that `ev_kind` and `ev_byte` carry (R35, R61, R62). -/
def EventRegs.payload (r : EventRegs) : Payload :=
  if r.kind then .address (r.byte.extractLsb' 1 7) (directionOf (r.byte.getLsbD 0)) else .data r.byte

/-- What a reader of the event outputs learns: nothing in a cycle without a record (R106), the event of the
last sample otherwise; the reserved code is a fault of the block (R63, I5). -/
def EventRegs.read (r : EventRegs) : Except Fault (Option Event) :=
  if r.valid = false then .ok Option.none
  else if r.code = 0 then .ok (some .none)
  else if r.code = 1 then .ok (some .start)
  else if r.code = 2 then .ok (some (.bit false))
  else if r.code = 3 then .ok (some (.bit true))
  else if r.code = 4 then .ok (some (.ack r.payload))
  else if r.code = 5 then .ok (some (.nack r.payload))
  else if r.code = 6 then .ok (some .stop)
  else .error .reservedEventCode

end Sys2Proof.Machine
end

