-- ==== Sys2Proof/Machine/ClockRise.lean ====
section
/-! DEFINITION. The rows of a rising SCL: data bits, acknowledgement slots and glitches. -/

namespace Sys2Proof.Machine

/-- BIT1 (R80), DW `01110-`. -/
def execBit1 (addressPhase : Bool) (s : State) : Result :=
  s.performRow ⟨false, true, true, true, false, addressPhase⟩ s.bus.receiveOne (.bit true)

/-- NACK_ADDR (R81), DW `011111`. A NACK resets nothing (R96). -/
def execNackAddr (s : State) : Result :=
  s.performRow ⟨false, true, true, true, true, true⟩ s.bus (.nack s.bus.addressPayload)

/-- NACK_DATA (R82), DW `011110`. A NACK resets nothing (R96). -/
def execNackData (s : State) : Result :=
  s.performRow ⟨false, true, true, true, true, false⟩ s.bus (.nack s.bus.dataPayload)

/-- BIT0 (R83), DW `01000-`. The bit's place in `value` is not written. -/
def execBit0 (addressPhase : Bool) (s : State) : Result :=
  s.performRow ⟨false, true, false, false, false, addressPhase⟩ s.bus.countBit (.bit false)

/-- ACK_ADDR (R84), DW `010011`. The event carries the byte before the reset. -/
def execAckAddr (s : State) : Result :=
  s.performRow ⟨false, true, false, false, true, true⟩ (s.bus.openByte false) (.ack s.bus.addressPayload)

/-- ACK_DATA (R85), DW `010010`. The event carries the byte before the reset. -/
def execAckData (s : State) : Result :=
  s.performRow ⟨false, true, false, false, true, false⟩ (s.bus.openByte false) (.ack s.bus.dataPayload)

/-- RISE_SDA_FALL (R86), DW `0110--`: a glitch, no bit counted. -/
def execRiseSdaFall (bz addressPhase : Bool) (s : State) : Result :=
  s.performRow ⟨false, true, true, false, bz, addressPhase⟩ s.bus .none

/-- RISE_SDA_RISE (R87), DW `0101--`: a glitch, no bit counted. -/
def execRiseSdaRise (bz addressPhase : Bool) (s : State) : Result :=
  s.performRow ⟨false, true, false, true, bz, addressPhase⟩ s.bus .none

end Sys2Proof.Machine
end

