-- ==== Sys2Proof/Machine/NoEvent.lean ====
section
/-! DEFINITION. The rows in which SCL is low, falls, or stays high with SDA unchanged: the event is `None`. -/

namespace Sys2Proof.Machine

/-- SCL_LOW (R89), DW `00----`. -/
def execSclLow (lastSda currentSda bz addressPhase : Bool) (s : State) : Result :=
  s.performRow ⟨false, false, lastSda, currentSda, bz, addressPhase⟩ s.bus .none

/-- SCL_FALL (R90), DW `10----`. -/
def execSclFall (lastSda currentSda bz addressPhase : Bool) (s : State) : Result :=
  s.performRow ⟨true, false, lastSda, currentSda, bz, addressPhase⟩ s.bus .none

/-- SCL_HIGH_SDA_LOW (R91), DW `1100--`. -/
def execSclHighSdaLow (bz addressPhase : Bool) (s : State) : Result :=
  s.performRow ⟨true, true, false, false, bz, addressPhase⟩ s.bus .none

/-- SCL_HIGH_SDA_HIGH (R92), DW `1111--`: the idle bus. -/
def execSclHighSdaHigh (bz addressPhase : Bool) (s : State) : Result :=
  s.performRow ⟨true, true, true, true, bz, addressPhase⟩ s.bus .none

end Sys2Proof.Machine
end

