-- ==== Sys2Proof/Machine/StartStop.lean ====
section
/-! DEFINITION. The rows START and STOP: SDA changes while SCL stays high. -/

namespace Sys2Proof.Machine

/-- START (R79), DW `1110--`. -/
def execStart (bz addressPhase : Bool) (s : State) : Result :=
  s.performRow ⟨true, true, true, false, bz, addressPhase⟩ (s.bus.openByte true) .start

/-- STOP (R88), DW `1101--`. It leaves the byte, the slot and the address phase as they were. -/
def execStop (bz addressPhase : Bool) (s : State) : Result :=
  s.performRow ⟨true, true, false, true, bz, addressPhase⟩ s.bus .stop

end Sys2Proof.Machine
end

