-- ==== Sys2Proof/Machine/Cycle.lean ====
section
/-! DEFINITION. The cycle operations RESET, IDLE and SAMPLE (spec/42_cycle_and_output.md). -/

namespace Sys2Proof.Machine

/-- RESET (R102), CW `1x`: every state element takes its reset value, from any state and whatever
`sample_valid` says; a sample presented in the same cycle is dropped (R29, R117). -/
def execReset (_sampleValid : Bool) (s : State) : Result :=
  .next { s with bus := BusState.reset, out := EventRegs.reset, resetSeen := true }

/-- IDLE (R103), CW `00`: `ev_valid` drops and nothing else changes. -/
def execIdle (s : State) : Result :=
  s.guarded (.next { s with out := s.out.expire })

/-- Perform the row that a decode word selects. `rowOf` answers only rows of format DW, so the last
three cases do not arise (Sys2Proof.Laws.rowOf_format). -/
def performSelected (i : Instr) (s : State) : Result :=
  match i with
  | .start bz ap => execStart bz ap s
  | .bit1 ap => execBit1 ap s
  | .nackAddr => execNackAddr s
  | .nackData => execNackData s
  | .bit0 ap => execBit0 ap s
  | .ackAddr => execAckAddr s
  | .ackData => execAckData s
  | .riseSdaFall bz ap => execRiseSdaFall bz ap s
  | .riseSdaRise bz ap => execRiseSdaRise bz ap s
  | .stop bz ap => execStop bz ap s
  | .sclLow ls cs bz ap => execSclLow ls cs bz ap s
  | .sclFall ls cs bz ap => execSclFall ls cs bz ap s
  | .sclHighSdaLow bz ap => execSclHighSdaLow bz ap s
  | .sclHighSdaHigh bz ap => execSclHighSdaHigh bz ap s
  | .reset _ => .refused .rowNotSelected
  | .idle => .refused .rowNotSelected
  | .sample _ _ _ => .refused .rowNotSelected

/-- SAMPLE (R104), CW `01`: the edge detector reads the sample (R68), the decode word is built (R55),
and the one row it selects is performed (R77). -/
def execSample (levels : Levels) (sclSel sdaSel : Sel) (s : State) : Result :=
  let e := s.bus.detectEdges levels sclSel sdaSel
  performSelected (decode (.dw (s.bus.decodeBits e.currentClk e.currentSda).word)) s

end Sys2Proof.Machine
end

