-- ==== Sys2Proof/Machine/Dispatch.lean ====
section
/-! DEFINITION. One arm per operation of spec/opcode_table.json, each a direct call of its meaning. -/

namespace Sys2Proof.Machine

def exec (i : Instr) (s : State) : Host.Outcome State Fault Refusal :=
  match i with
  | .start bz ap => Sys2Proof.Machine.execStart bz ap s
  | .bit1 ap => Sys2Proof.Machine.execBit1 ap s
  | .nackAddr => Sys2Proof.Machine.execNackAddr s
  | .nackData => Sys2Proof.Machine.execNackData s
  | .bit0 ap => Sys2Proof.Machine.execBit0 ap s
  | .ackAddr => Sys2Proof.Machine.execAckAddr s
  | .ackData => Sys2Proof.Machine.execAckData s
  | .riseSdaFall bz ap => Sys2Proof.Machine.execRiseSdaFall bz ap s
  | .riseSdaRise bz ap => Sys2Proof.Machine.execRiseSdaRise bz ap s
  | .stop bz ap => Sys2Proof.Machine.execStop bz ap s
  | .sclLow ls cs bz ap => Sys2Proof.Machine.execSclLow ls cs bz ap s
  | .sclFall ls cs bz ap => Sys2Proof.Machine.execSclFall ls cs bz ap s
  | .sclHighSdaLow bz ap => Sys2Proof.Machine.execSclHighSdaLow bz ap s
  | .sclHighSdaHigh bz ap => Sys2Proof.Machine.execSclHighSdaHigh bz ap s
  | .reset sampleValid => Sys2Proof.Machine.execReset sampleValid s
  | .idle => Sys2Proof.Machine.execIdle s
  | .sample levels sclSel sdaSel => Sys2Proof.Machine.execSample levels sclSel sdaSel s

end Sys2Proof.Machine
end

