-- ==== Sys2Proof/Machine/Step.lean ====
section
/-! DEFINITION. One rising edge of `clk` (spec/42_cycle_and_output.md R101). -/

namespace Sys2Proof.Machine

/-- At an edge the block performs the one operation that the words on its input ports select (R101). -/
def step (s : State) : Host.Outcome State Fault Refusal :=
  exec (decode s.fetch.code) s.advance

/-- The state in which the next step performs the operation that a table number stands for; unchanged
where the number stands for none. -/
def State.withFetchWord (s : State) (nbits w : Nat) : State :=
  match decodeTableWord nbits w with
  | some i => s.withFetched i
  | none => s

end Sys2Proof.Machine
end

