-- ==== Sys2Proof/Machine/HostSide.lean ====
section
/-! DEFINITION. What drives the block's inputs and reads its outputs: the sample-stream listing of R64, the bus macros of R65 and the text labels of R110 and R111. None of it is part of the block. -/

namespace Sys2Proof.Machine

/-! ## Sample streams (R64, R65) -/

/-- The bus macros of R65. -/
inductive BusMacro where
  | busIdle
  | i2cStart
  | i2cRstart
  | i2cBit (b : Bool)
  | i2cByte (x : BitVec 8)
  | i2cStop
  deriving DecidableEq, Repr

/-- One data or acknowledgement bit as `(SCL, SDA)` pairs (R65). -/
def bitPairs (b : Bool) : List (Bool × Bool) := [(false, b), (true, b), (false, b)]

/-- A macro's expansion as `(SCL, SDA)` pairs (R65). -/
def BusMacro.pairs : BusMacro → List (Bool × Bool)
  | .busIdle => [(true, true)]
  | .i2cStart => [(true, false), (false, false)]
  | .i2cRstart => [(false, true), (true, true), (true, false), (false, false)]
  | .i2cBit b => bitPairs b
  | .i2cByte x => [7, 6, 5, 4, 3, 2, 1, 0].flatMap fun i => bitPairs (x.getLsbD i)
  | .i2cStop => [(false, false), (true, false), (true, true)]

/-- The sample of a pair `(c, d)`: `levels = (c << scl_sel) | (d << sda_sel)`, with the levels that the program
gives the other pins, 0 unless it says otherwise (R65). Under equal selects the formula is kept, so the one pin shows `c | d`
(notes/assumptions/10.md, DESIGN CHOICE). -/
def pairPins (sclSel sdaSel : Sel) (other : Levels) (p : Bool × Bool) : Pins :=
  Pins.ofSample
    (((0#7 ++ BitVec.ofBool p.1) <<< sclSel.toNat) ||| ((0#7 ++ BitVec.ofBool p.2) <<< sdaSel.toNat)
      ||| (other &&& ~~~((1#8 <<< sclSel.toNat) ||| (1#8 <<< sdaSel.toNat))))
    sclSel sdaSel

/-- A line of a listing (R64), a pair, or a macro (R65; decision D19 lists the two apart). -/
inductive StreamLine where
  | cfg (sclSel sdaSel : Sel)
  | reset
  | idle
  | sample (levels : Levels)
  | pair (c d : Bool)
  | bus (m : BusMacro)
  deriving DecidableEq, Repr

/-- A program that says nothing of the pins other than SCL and SDA: they show 0 in every pair (R65). -/
def quietOthers : Nat → Levels := fun _ => 0

/-- The edges of a listing, the CFG word held until the next `cfg` line (R64). `none` where a macro stands
under equal selects, for which R65 defines none; a pair keeps its sample there (notes/assumptions/10.md, DESIGN CHOICE). `other k` is what the
program says of the other pins in its k-th sample, read where that sample comes from a pair or a macro, and `k`
counts the samples before this line. The CFG word before the first `cfg` line is an argument, because R64 gives
none, and `reset` and `idle` lines show 0 on the ports that R64 leaves unsaid (notes/assumptions/10.md, DESIGN
CHOICE). -/
def streamPins (other : Nat → Levels) (k : Nat) (sclSel sdaSel : Sel) : List StreamLine → Option (List Pins)
  | [] => some []
  | .cfg c d :: rest => streamPins other k c d rest
  | .reset :: rest =>
    (streamPins other k sclSel sdaSel rest).map
      ({ Pins.ofSample 0 sclSel sdaSel with rst := true, sampleValid := false } :: ·)
  | .idle :: rest =>
    (streamPins other k sclSel sdaSel rest).map ({ Pins.ofSample 0 sclSel sdaSel with sampleValid := false } :: ·)
  | .sample l :: rest => (streamPins other (k + 1) sclSel sdaSel rest).map (Pins.ofSample l sclSel sdaSel :: ·)
  | .pair c d :: rest =>
    (streamPins other (k + 1) sclSel sdaSel rest).map (pairPins sclSel sdaSel (other k) (c, d) :: ·)
  | .bus m :: rest =>
    if sclSel = sdaSel then none
    else (streamPins other (k + m.pairs.length) sclSel sdaSel rest).map
      (m.pairs.mapIdx (fun i p => pairPins sclSel sdaSel (other (k + i)) p) ++ ·)

/-! ## Text labels (R110, R111; informative) -/

/-- A number in an OPEN format (decision D20), which every caller supplies. The spec says no more of it than
radix, width and prefix. DESIGN CHOICE (notes/assumptions/13.md): the prefix stands first, `fill` between it and
the digits until there are `width` digits and fill signs together, the prefix not counted, and the digits are
those of `Nat.toDigits`, highest first, with letters above 9. -/
def writeNumber (f : Config.NumberFormat) (n : Nat) : String :=
  let digits := (Nat.toDigits f.radix n).map fun c => if f.upper then c.toUpper else c
  f.lead ++ String.ofList (List.replicate (f.width - digits.length) f.fill ++ digits)

/-- The source's word for a direction (R110). -/
def Direction.label : Direction → String
  | .read => "Read"
  | .write => "Write"

/-- The part of a label after `Ack` or `Nack` (R110). -/
def Payload.label (addr data : Config.NumberFormat) : Payload → String
  | .address a d => "adrs:" ++ writeNumber addr a.toNat ++ " " ++ d.label
  | .data v => "data:" ++ writeNumber data v.toNat

/-- The label of an event (R110). -/
def Event.label (addr data : Config.NumberFormat) : Event → String
  | .none => ""
  | .start => "START"
  | .bit false => "0"
  | .bit true => "1"
  | .ack p => "Ack " ++ p.label addr data
  | .nack p => "Nack " ++ p.label addr data
  | .stop => "STOP"

/-- The source's output record for a sample line (R111); `row`, `delta`, `levels` and `trace` are the
host's texts of them. -/
def traceRecord (row delta levels trace eventLabel : String) : String :=
  row ++ "\t" ++ delta ++ "\t" ++ levels ++ "\t" ++ trace ++ "\t" ++ eventLabel ++ "\n"

end Sys2Proof.Machine
end

