-- ==== Sys2Proof/Safety.lean ====
section
/-! DEFINITION. The terms that statements are made in: which states may be stepped, the invariant of the reachable states, runs over a stream of input values, and the whole SAMPLE step as R95 writes it in one piece. -/

namespace Sys2Proof.Machine

/-! ## States -/

/-- A state that a model may step: one that a RESET has preceded (R129), with `bitsRemaining` in 0 to 8 (R21). -/
abbrev State.Steppable (s : State) : Prop :=
  s.resetSeen = true ∧ s.bus.bitsRemaining.toNat ≤ 8

/-- The positions of the bits still to be received hold 0 (R22). -/
abbrev BusState.Clear (b : BusState) : Prop :=
  ∀ i, i < b.bitsRemaining.toNat → b.value.getLsbD i = false

/-- The event registers hold a record that `encode` of R105 yields: never code 7 (R63), and kind and byte
are 0 unless the code is Ack or Nack (R61, R62). -/
abbrev EventRegs.Encoded (r : EventRegs) : Prop :=
  r.code ≠ 7 ∧ (r.code ≠ 4 → r.code ≠ 5 → r.kind = false ∧ r.byte = 0)

/-- The invariant of every state reached from RESET. -/
structure State.Inv (s : State) : Prop where
  steppable : s.Steppable
  clear : s.bus.Clear
  encoded : s.out.Encoded

/-! ## Kinds of edges and of events -/

/-- The edge is a SAMPLE (R52). -/
abbrev Pins.isSample (p : Pins) : Prop := p.rst = false ∧ p.sampleValid = true

/-- The edge is an IDLE (R52). -/
abbrev Pins.isIdle (p : Pins) : Prop := p.rst = false ∧ p.sampleValid = false

/-- START and ACK arm a new byte (R79, R84, R85). -/
def Event.armsByte : Event → Bool
  | .none => false
  | .start => true
  | .bit _ => false
  | .ack _ => true
  | .nack _ => false
  | .stop => false

/-- The data bit that an edge received, if it received one. -/
def Event.bits : Event → List Bool
  | .none => []
  | .start => []
  | .bit b => [b]
  | .ack _ => []
  | .nack _ => []
  | .stop => []

/-! ## Runs -/

/-- `t` is reached from `s` by steps each of which satisfies `P` of the input values it took and of the state
it led to. -/
inductive Runs (P : Pins → State → Prop) : State → State → Prop where
  | refl (s : State) : Runs P s s
  | tail {s t u : State} : Runs P s t → step t = .next u → P t.fetch u → Runs P s u

/-- The edge was no RESET, and the record it left, if it left one, armed no new byte. -/
def KeepsByte (p : Pins) (u : State) : Prop :=
  p.rst = false ∧ ∃ e, u.out.read = .ok e ∧ ∀ x, e = some x → x.armsByte = false

/-- `t` is reached from `s` by edges that are no RESET and arm no new byte, and `bits` are the data bits
received on the way, in order of arrival (R22). -/
inductive Receives : State → List Bool → State → Prop where
  | refl (s : State) : Receives s [] s
  | tail {s t u : State} {bits : List Bool} {e : Option Event} : Receives s bits t → step t = .next u →
      KeepsByte t.fetch u → u.out.read = .ok e → Receives s (bits ++ (e.map Event.bits).getD []) u

/-! ## The whole step in one piece -/

/-- The acknowledgement decode as R93 writes it. -/
def decodeOfR93 (b : BusState) : Payload :=
  if b.addressPhase = true then
    .address (b.value.extractLsb 7 1) (if b.value.getLsbD 0 = true then .read else .write)
  else .data b.value

/-- `step(S, levels, scl_sel, sda_sel)` as R95 writes it, over the two selected levels. -/
def wholeStep (b : BusState) (cc cs : Bool) : BusState × Event :=
  let lc := b.lastClk
  let ls := b.lastSda
  let r : BusState × Event :=
    if lc && cc && ls && !cs then
      ({ b with value := 0, bitsRemaining := 8, addressPhase := true }, .start)
    else if !lc && cc then
      if ls && cs then
        if 0 < b.bitsRemaining.toNat then
          let n := b.bitsRemaining - 1
          ({ b with bitsRemaining := n, value := b.value ||| (1#8 <<< n.toNat) }, .bit true)
        else (b, .nack (decodeOfR93 b))
      else if !ls && !cs then
        if 0 < b.bitsRemaining.toNat then
          ({ b with bitsRemaining := b.bitsRemaining - 1 }, .bit false)
        else
          ({ b with value := 0, bitsRemaining := 8, addressPhase := false }, .ack (decodeOfR93 b))
      else (b, .none)
    else if lc && cc && !ls && cs then (b, .stop)
    else (b, .none)
  ({ r.1 with lastClk := cc, lastSda := cs }, r.2)

/-- `encode(ev)` as the table of R105 writes it; `v` is `S.value`, the value before the step. -/
def encodeOfR105 (v : BitVec 8) : Event → EventRegs
  | .none => ⟨true, 0, false, 0x00⟩
  | .start => ⟨true, 1, false, 0x00⟩
  | .bit false => ⟨true, 2, false, 0x00⟩
  | .bit true => ⟨true, 3, false, 0x00⟩
  | .ack (.address _ _) => ⟨true, 4, true, v⟩
  | .ack (.data _) => ⟨true, 4, false, v⟩
  | .nack (.address _ _) => ⟨true, 5, true, v⟩
  | .nack (.data _) => ⟨true, 5, false, v⟩
  | .stop => ⟨true, 6, false, 0x00⟩

end Sys2Proof.Machine
end

