-- ==== Sys2Proof/Certificates/Slice0/Obligations.lean ====
section
/-! DEFINITION. The statements made about the model, in the order reset and cycle operations, the rows of the opcode table, frames, writers, refusals, events and ports, the edge detector, consequences over several samples, and encoding. -/

open Sys2Proof Sys2Proof.Machine

/-! ## Reset and cycle operations -/

/-- The values R126 lists stand in the model's reset state. -/
def Obligations.ResetStateHoldsTheListedValues : Prop :=
  State.reset.bus.lastClk = true ∧ State.reset.bus.lastSda = true ∧
  State.reset.bus.bitsRemaining = 0 ∧ State.reset.bus.value = 0x00 ∧
  State.reset.bus.addressPhase = false ∧
  State.reset.out.valid = false ∧ State.reset.out.code = 0 ∧
  State.reset.out.kind = false ∧ State.reset.out.byte = 0x00

/-- R102: RESET completes, whatever `sample_valid` says, and writes all of R15. That it is performed from
every state is the model's choice: with `bitsRemaining` 9 to 15, which R21 says a model does not step, by
notes/assumptions/3.md, and before the first RESET by notes/assumptions/2.md. -/
def Obligations.ResetWritesEveryElementFromAnyState : Prop :=
  ∀ (sampleValid : Bool) (s : State),
    exec (.reset sampleValid) s = .next
      { bus := ⟨true, true, 0, 0x00, false⟩, out := ⟨false, 0, false, 0x00⟩, resetSeen := true,
        inputs := s.inputs }

/-- R29: an edge with `rst = 1` is a RESET whatever the other inputs are. That this holds in every state too,
those of R21 and R129 included, is the model's choice (notes/assumptions/2.md and 3.md). -/
def Obligations.ResetWinsOverEveryOtherInput : Prop :=
  ∀ (s : State) (p : Pins) (rest : List Pins), s.inputs = p :: rest → p.rst = true →
    step s = .next
      { bus := ⟨true, true, 0, 0x00, false⟩, out := ⟨false, 0, false, 0x00⟩, resetSeen := true,
        inputs := rest }

/-- R103: IDLE completes, clears `ev_valid` and leaves everything else. -/
def Obligations.IdleClearsOnlyEvValid : Prop :=
  ∀ s : State, s.Steppable →
    exec .idle s = .next { s with out := { s.out with valid := false } }

/-- R52: the control word of an edge selects the operation, and the step is that operation on the state
without the values of the edge. -/
def Obligations.StepRunsTheOperationTheControlWordSelects : Prop :=
  ∀ (s : State) (p : Pins) (rest : List Pins), s.inputs = p :: rest →
    step s = exec (decode p.code) { s with inputs := rest } ∧
    decode p.code =
      (if p.rst = true then .reset p.sampleValid
       else if p.sampleValid = true then .sample p.levels p.sclSel p.sdaSel
       else .idle)

/-- Past the end of the presented inputs the step is IDLE: the model's choice (notes/assumptions/1.md), from
what R109 says of a host that has stopped. -/
def Obligations.StepPastTheInputsIsIdle : Prop :=
  ∀ s : State, s.inputs = [] → step s = exec .idle s

/-- R56 and R77: the row that a SAMPLE performs is the one that the decode word, built from the state and the
two selected levels as R55 says, decodes to. In a state that a model does not step, the row run on its own
(notes/assumptions/11.md) refuses just as SAMPLE does: the model's readings of notes/assumptions/2.md and 3.md. -/
def Obligations.SamplePerformsTheRowItsDecodeWordSelects : Prop :=
  ∀ (levels : Levels) (sclSel sdaSel : Sel) (s : State) (w : Dw),
    w.getLsbD 5 = s.bus.lastClk → w.getLsbD 4 = levels.getLsbD sclSel.toNat →
    w.getLsbD 3 = s.bus.lastSda → w.getLsbD 2 = levels.getLsbD sdaSel.toNat →
    w.getLsbD 1 = decide (s.bus.bitsRemaining = 0) → w.getLsbD 0 = s.bus.addressPhase →
    exec (.sample levels sclSel sdaSel) s = exec (decode (.dw w)) s

/-- R95 with R104 and R105: a SAMPLE completes from every state that may be stepped, with BusState and the
event registers as the step in one piece gives them. -/
def Obligations.SampleIsTheWholeStep : Prop :=
  ∀ (levels : Levels) (sclSel sdaSel : Sel) (s : State), s.Steppable →
    exec (.sample levels sclSel sdaSel) s = .next
      { s with
        bus := (wholeStep s.bus (levels.getLsbD sclSel.toNat) (levels.getLsbD sdaSel.toNat)).1
        out := encodeOfR105 s.bus.value
          (wholeStep s.bus (levels.getLsbD sclSel.toNat) (levels.getLsbD sdaSel.toNat)).2 }

/-! ## The rows

Each row completes in every state whose own decode-word bits are the row's (R56), and its next state is
written out. -/

/-- R79. -/
def Obligations.StartArmsAnAddressByte : Prop :=
  ∀ (bz addressPhase : Bool) (s : State), s.Steppable →
    s.bus.lastClk = true → s.bus.lastSda = true →
    bz = decide (s.bus.bitsRemaining = 0) → addressPhase = s.bus.addressPhase →
    exec (.start bz addressPhase) s = .next
      { s with bus := ⟨true, false, 8, 0x00, true⟩, out := ⟨true, 1, false, 0x00⟩ }

/-- R80: the 1 lands at the position counted down to. -/
def Obligations.BitOneCountsAndSetsItsPosition : Prop :=
  ∀ (addressPhase : Bool) (s : State), s.Steppable →
    s.bus.lastClk = false → s.bus.lastSda = true →
    0 < s.bus.bitsRemaining.toNat → addressPhase = s.bus.addressPhase →
    ∃ t, exec (.bit1 addressPhase) s = .next t ∧
      t.bus.bitsRemaining.toNat = s.bus.bitsRemaining.toNat - 1 ∧
      t.bus.value = s.bus.value ||| (1#8 <<< (s.bus.bitsRemaining.toNat - 1)) ∧
      t.bus.addressPhase = s.bus.addressPhase ∧ t.bus.lastClk = true ∧ t.bus.lastSda = true ∧
      t.out = ⟨true, 3, false, 0x00⟩ ∧ t.resetSeen = s.resetSeen ∧ t.inputs = s.inputs

/-- R81: the event carries the byte, and only the last levels are written. -/
def Obligations.NackOfAnAddressKeepsTheByte : Prop :=
  ∀ s : State, s.Steppable → s.bus.lastClk = false → s.bus.lastSda = true →
    s.bus.bitsRemaining = 0 → s.bus.addressPhase = true →
    exec .nackAddr s = .next
      { s with bus := ⟨true, true, 0, s.bus.value, true⟩, out := ⟨true, 5, true, s.bus.value⟩ }

/-- R82. -/
def Obligations.NackOfDataKeepsTheByte : Prop :=
  ∀ s : State, s.Steppable → s.bus.lastClk = false → s.bus.lastSda = true →
    s.bus.bitsRemaining = 0 → s.bus.addressPhase = false →
    exec .nackData s = .next
      { s with bus := ⟨true, true, 0, s.bus.value, false⟩, out := ⟨true, 5, false, s.bus.value⟩ }

/-- R83. -/
def Obligations.BitZeroCountsAndLeavesTheByte : Prop :=
  ∀ (addressPhase : Bool) (s : State), s.Steppable →
    s.bus.lastClk = false → s.bus.lastSda = false →
    0 < s.bus.bitsRemaining.toNat → addressPhase = s.bus.addressPhase →
    ∃ t, exec (.bit0 addressPhase) s = .next t ∧
      t.bus.bitsRemaining.toNat = s.bus.bitsRemaining.toNat - 1 ∧
      t.bus.value = s.bus.value ∧
      t.bus.addressPhase = s.bus.addressPhase ∧ t.bus.lastClk = true ∧ t.bus.lastSda = false ∧
      t.out = ⟨true, 2, false, 0x00⟩ ∧ t.resetSeen = s.resetSeen ∧ t.inputs = s.inputs

/-- R84: the event carries the byte before the reset. -/
def Obligations.AckOfAnAddressArmsADataByte : Prop :=
  ∀ s : State, s.Steppable → s.bus.lastClk = false → s.bus.lastSda = false →
    s.bus.bitsRemaining = 0 → s.bus.addressPhase = true →
    exec .ackAddr s = .next
      { s with bus := ⟨true, false, 8, 0x00, false⟩, out := ⟨true, 4, true, s.bus.value⟩ }

/-- R85. -/
def Obligations.AckOfDataArmsADataByte : Prop :=
  ∀ s : State, s.Steppable → s.bus.lastClk = false → s.bus.lastSda = false →
    s.bus.bitsRemaining = 0 → s.bus.addressPhase = false →
    exec .ackData s = .next
      { s with bus := ⟨true, false, 8, 0x00, false⟩, out := ⟨true, 4, false, s.bus.value⟩ }

/-- R86 and R87: a glitch counts no bit and emits `None`. -/
def Obligations.GlitchRowsWriteOnlyTheLastLevels : Prop :=
  ∀ (bz addressPhase : Bool) (s : State), s.Steppable → s.bus.lastClk = false →
    bz = decide (s.bus.bitsRemaining = 0) → addressPhase = s.bus.addressPhase →
    (s.bus.lastSda = true → exec (.riseSdaFall bz addressPhase) s = .next
      { s with bus := { s.bus with lastClk := true, lastSda := false },
               out := ⟨true, 0, false, 0x00⟩ }) ∧
    (s.bus.lastSda = false → exec (.riseSdaRise bz addressPhase) s = .next
      { s with bus := { s.bus with lastClk := true, lastSda := true },
               out := ⟨true, 0, false, 0x00⟩ })

/-- R88. -/
def Obligations.StopWritesOnlyTheLastLevels : Prop :=
  ∀ (bz addressPhase : Bool) (s : State), s.Steppable →
    s.bus.lastClk = true → s.bus.lastSda = false →
    bz = decide (s.bus.bitsRemaining = 0) → addressPhase = s.bus.addressPhase →
    exec (.stop bz addressPhase) s = .next
      { s with bus := { s.bus with lastClk := true, lastSda := true },
               out := ⟨true, 6, false, 0x00⟩ }

/-- R89 and R90: with SCL low in the sample, `lastSda` takes the sample's level, whatever SDA did. -/
def Obligations.LowClockRowsWriteOnlyTheLastLevels : Prop :=
  ∀ (currentSda bz addressPhase : Bool) (s : State), s.Steppable →
    bz = decide (s.bus.bitsRemaining = 0) → addressPhase = s.bus.addressPhase →
    (s.bus.lastClk = false → exec (.sclLow s.bus.lastSda currentSda bz addressPhase) s = .next
      { s with bus := { s.bus with lastClk := false, lastSda := currentSda },
               out := ⟨true, 0, false, 0x00⟩ }) ∧
    (s.bus.lastClk = true → exec (.sclFall s.bus.lastSda currentSda bz addressPhase) s = .next
      { s with bus := { s.bus with lastClk := false, lastSda := currentSda },
               out := ⟨true, 0, false, 0x00⟩ })

/-- R91 and R92: with SCL high and neither line changing, BusState stays as it is. -/
def Obligations.SteadyHighClockRowsKeepBusState : Prop :=
  ∀ (bz addressPhase : Bool) (s : State), s.Steppable → s.bus.lastClk = true →
    bz = decide (s.bus.bitsRemaining = 0) → addressPhase = s.bus.addressPhase →
    (s.bus.lastSda = false → exec (.sclHighSdaLow bz addressPhase) s = .next
      { s with out := ⟨true, 0, false, 0x00⟩ }) ∧
    (s.bus.lastSda = true → exec (.sclHighSdaHigh bz addressPhase) s = .next
      { s with out := ⟨true, 0, false, 0x00⟩ })

/-! ## Frames -/

/-- Frame of the rows whose "State written" is `lastClk` and `lastSda` only. -/
def Obligations.FrameOfRowsThatWriteOnlyTheLastLevels : Prop :=
  ∀ (i : Instr) (s t : State),
    (i = .nackAddr ∨ i = .nackData ∨ (∃ bz ap, i = .riseSdaFall bz ap) ∨
      (∃ bz ap, i = .riseSdaRise bz ap) ∨ (∃ bz ap, i = .stop bz ap) ∨
      (∃ ls cs bz ap, i = .sclLow ls cs bz ap) ∨ (∃ ls cs bz ap, i = .sclFall ls cs bz ap) ∨
      (∃ bz ap, i = .sclHighSdaLow bz ap) ∨ ∃ bz ap, i = .sclHighSdaHigh bz ap) →
    exec i s = .next t →
    t.bus.bitsRemaining = s.bus.bitsRemaining ∧ t.bus.value = s.bus.value ∧
    t.bus.addressPhase = s.bus.addressPhase ∧ t.resetSeen = s.resetSeen ∧ t.inputs = s.inputs

/-- Frame of the rows that write the byte, its counter or the address phase: BIT1 leaves `addressPhase`,
BIT0 leaves `value` too, and no row touches the model's own fields. -/
def Obligations.FrameOfRowsThatWriteTheByte : Prop :=
  ∀ (s t : State),
    (∀ ap, exec (.bit1 ap) s = .next t →
      t.bus.addressPhase = s.bus.addressPhase ∧ t.resetSeen = s.resetSeen ∧ t.inputs = s.inputs) ∧
    (∀ ap, exec (.bit0 ap) s = .next t →
      t.bus.value = s.bus.value ∧ t.bus.addressPhase = s.bus.addressPhase ∧
      t.resetSeen = s.resetSeen ∧ t.inputs = s.inputs) ∧
    (∀ i, (i = .ackAddr ∨ i = .ackData ∨ ∃ bz ap, i = .start bz ap) → exec i s = .next t →
      t.resetSeen = s.resetSeen ∧ t.inputs = s.inputs)

/-- Frame of the cycle operations: IDLE leaves all but `ev_valid`; RESET and SAMPLE leave the inputs still
to come. -/
def Obligations.FrameOfCycleOperations : Prop :=
  ∀ (s t : State),
    (exec .idle s = .next t →
      t.bus = s.bus ∧ t.out.code = s.out.code ∧ t.out.kind = s.out.kind ∧ t.out.byte = s.out.byte ∧
      t.resetSeen = s.resetSeen ∧ t.inputs = s.inputs) ∧
    (∀ sv, exec (.reset sv) s = .next t → t.inputs = s.inputs) ∧
    (∀ l c d, exec (.sample l c d) s = .next t → t.resetSeen = s.resetSeen ∧ t.inputs = s.inputs)

/-! ## Writers of the state, over every step -/

/-- R16, R17, R78: a SAMPLE writes the last levels with its own, RESET writes 1, IDLE writes nothing. -/
def Obligations.LastLevelsFollowEverySample : Prop :=
  State.reset.bus.lastClk = true ∧ State.reset.bus.lastSda = true ∧
  ∀ s t : State, step s = .next t →
    (s.fetch.isSample →
      t.bus.lastClk = s.fetch.levels.getLsbD s.fetch.sclSel.toNat ∧
      t.bus.lastSda = s.fetch.levels.getLsbD s.fetch.sdaSel.toNat) ∧
    (s.fetch.rst = true → t.bus.lastClk = true ∧ t.bus.lastSda = true) ∧
    (s.fetch.isIdle → t.bus.lastClk = s.bus.lastClk ∧ t.bus.lastSda = s.bus.lastSda)

/-- R18 and R19: what each event says was done to `bitsRemaining` and `value`, and that nothing else is
done to them. -/
def Obligations.CounterAndByteChangeOnlyWithTheirEvents : Prop :=
  State.reset.bus.bitsRemaining = 0 ∧ State.reset.bus.value = 0x00 ∧
  ∀ s t : State, step s = .next t →
    (s.fetch.rst = true → t.bus.bitsRemaining = 0 ∧ t.bus.value = 0x00) ∧
    (s.fetch.rst = false → ∀ o, t.out.read = .ok o →
      (∀ e, o = some e → e.armsByte = true → t.bus.bitsRemaining = 8 ∧ t.bus.value = 0x00) ∧
      (∀ b, o = some (.bit b) →
        t.bus.bitsRemaining.toNat + 1 = s.bus.bitsRemaining.toNat ∧
        t.bus.value =
          s.bus.value ||| (if b = true then 1#8 <<< t.bus.bitsRemaining.toNat else 0)) ∧
      ((o = none ∨ o = some .none ∨ o = some .stop ∨ ∃ p, o = some (.nack p)) →
        t.bus.bitsRemaining = s.bus.bitsRemaining ∧ t.bus.value = s.bus.value))

/-- R20: START alone sets the address phase; of the events, ACK alone clears it. -/
def Obligations.AddressPhaseIsSetByStartAndClearedByAck : Prop :=
  State.reset.bus.addressPhase = false ∧
  ∀ s t : State, step s = .next t →
    (s.fetch.rst = true → t.bus.addressPhase = false) ∧
    (s.fetch.rst = false → ∀ o, t.out.read = .ok o →
      (o = some .start → t.bus.addressPhase = true) ∧
      (∀ p, o = some (.ack p) → t.bus.addressPhase = false) ∧
      (o ≠ some .start → (∀ p, o ≠ some (.ack p)) → t.bus.addressPhase = s.bus.addressPhase))

/-- R23: an edge that is neither a SAMPLE nor a RESET leaves BusState. -/
def Obligations.OnlySampleAndResetWriteBusState : Prop :=
  ∀ s t : State, step s = .next t → t.bus ≠ s.bus → s.fetch.isSample ∨ s.fetch.rst = true

/-- R106: `ev_valid` is 1 exactly after a SAMPLE edge; then the event registers hold that sample's event,
and code 0 says that it was `None`. -/
def Obligations.EventRegistersHoldTheEventOfTheSampleEdge : Prop :=
  ∀ s t : State, step s = .next t →
    (t.out.valid = true ↔ s.fetch.isSample) ∧
    ∀ e : Event,
      e = (wholeStep s.bus (s.fetch.levels.getLsbD s.fetch.sclSel.toNat)
        (s.fetch.levels.getLsbD s.fetch.sdaSel.toNat)).2 →
      s.fetch.isSample → t.out = encodeOfR105 s.bus.value e ∧ (t.out.code = 0 ↔ e = .none)

/-! ## Where a model refuses to step -/

/-- R129: before the first RESET nothing but RESET is stepped, and RESET leads to a state of the invariant.
That IDLE and a DW row on its own are refused too, and that RESET is performed there, is the model's reading
of the rule's first sentence about a model (notes/assumptions/2.md). -/
def Obligations.OnlyResetRunsBeforeTheFirstReset : Prop :=
  ∀ s : State, s.resetSeen = false →
    (∀ i : Instr, (∀ sv, i ≠ .reset sv) → exec i s = .refused .beforeFirstReset) ∧
    ∀ sv, ∃ t, exec (.reset sv) s = .next t ∧ t.Inv

/-- R21's refusal: `bitsRemaining` in 9 to 15 is not stepped. That RESET is still performed there is the
model's reading (notes/assumptions/3.md). -/
def Obligations.CounterAboveEightIsRefused : Prop :=
  ∀ s : State, s.resetSeen = true → 9 ≤ s.bus.bitsRemaining.toNat →
    ∀ i : Instr, (∀ sv, i ≠ .reset sv) → exec i s = .refused .bitsRemainingOutOfRange

/-- The model's guard on a row that is run on its own (notes/assumptions/5.md): it is refused exactly in the
states that may be stepped and whose decode word, with the row's own current levels, is another. -/
def Obligations.RowOfAnotherDecodeWordIsRefused : Prop :=
  ∀ (s : State) (w : Dw), s.Steppable →
    (exec (decode (.dw w)) s = .refused .rowNotSelected ↔
      ¬ (w.getLsbD 5 = s.bus.lastClk ∧ w.getLsbD 3 = s.bus.lastSda ∧
        w.getLsbD 1 = decide (s.bus.bitsRemaining = 0) ∧ w.getLsbD 0 = s.bus.addressPhase))

/-- R113: no operation and no step faults. -/
def Obligations.NothingTheBlockDoesIsAFault : Prop :=
  (∀ (i : Instr) (s : State) (f : Fault), exec i s ≠ .fault f) ∧
  ∀ (s : State) (f : Fault), step s ≠ .fault f

/-! ## Events and ports -/

/-- R105: the record of each event, and that an acknowledged byte's record carries `S.value`. -/
def Obligations.EventRecordsFollowTheEncodingTable : Prop :=
  Event.record .none = ⟨true, 0, false, 0x00⟩ ∧ Event.record .start = ⟨true, 1, false, 0x00⟩ ∧
  Event.record (.bit false) = ⟨true, 2, false, 0x00⟩ ∧
  Event.record (.bit true) = ⟨true, 3, false, 0x00⟩ ∧
  Event.record .stop = ⟨true, 6, false, 0x00⟩ ∧ (∀ e : Event, e.record.code ≠ 7) ∧
  ∀ (b : BusState) (a : BitVec 7) (d : Direction) (v : BitVec 8),
    Event.record (.ack (.address a d)) = ⟨true, 4, true, a ++ BitVec.ofBool (decide (d = .read))⟩ ∧
    Event.record (.nack (.address a d)) = ⟨true, 5, true, a ++ BitVec.ofBool (decide (d = .read))⟩ ∧
    Event.record (.ack (.data v)) = ⟨true, 4, false, v⟩ ∧
    Event.record (.nack (.data v)) = ⟨true, 5, false, v⟩ ∧
    b.decodeByte.byte = b.value ∧ b.decodeByte.kind = b.addressPhase

/-- The event registers lose nothing of an event (decision D8 calls the mapping a bijection), so two events
with one record are one event. A reader of the registers faults on the reserved code (R63); that it does so only
with `ev_valid = 1` is the model's reading (notes/assumptions/12.md, DEDUCED). -/
def Obligations.EventIsReadBackFromItsRecord : Prop :=
  (∀ e : Event, e.record.read = .ok (some e)) ∧
  (∀ r : EventRegs, r.read = .error .reservedEventCode ↔ r.valid = true ∧ r.code = 7)

/-- R35 and R36: the ports that are views of registers. -/
def Obligations.OutputPortsShowTheRegisters : Prop :=
  ∀ s : State,
    s.outputs.evAddr = (s.out.byte >>> 1).setWidth 7 ∧ s.outputs.evDir = s.out.byte.getLsbD 0 ∧
    s.outputs.stLastClk = s.bus.lastClk ∧ s.outputs.stLastSda = s.bus.lastSda ∧
    s.outputs.stBitsRemaining = s.bus.bitsRemaining ∧ s.outputs.stValue = s.bus.value ∧
    s.outputs.stAddressPhase = s.bus.addressPhase ∧
    s.outputs.evValid = s.out.valid ∧ s.outputs.evCode = s.out.code ∧
    s.outputs.evKind = s.out.kind ∧ s.outputs.evByte = s.out.byte

/-- R93 as a host sees it: after an address acknowledgement the address and direction ports show the byte's
top seven bits and its lowest bit. -/
def Obligations.AddressPortsShowTheAcknowledgedByte : Prop :=
  ∀ (i : Instr) (s t : State), (i = .ackAddr ∨ i = .nackAddr) → exec i s = .next t →
    t.outputs.evKind = true ∧ t.outputs.evAddr = (s.bus.value >>> 1).setWidth 7 ∧
    t.outputs.evDir = s.bus.value.getLsbD 0

/-! ## The edge detector -/

/-- R69 to R74, with the exclusivity of R75: the six results of the edge detector. -/
def Obligations.EdgeDetectorComputesLevelsAndEdges : Prop :=
  ∀ (b : BusState) (levels : Levels) (sclSel sdaSel : Sel) (e : EdgeInfo),
    e = b.detectEdges levels sclSel sdaSel →
    (e.currentClk = true ↔ levels &&& (1#8 <<< sclSel.toNat) ≠ 0) ∧
    (e.currentSda = true ↔ levels &&& (1#8 <<< sdaSel.toNat) ≠ 0) ∧
    (e.clkRising = true ↔ b.lastClk = false ∧ e.currentClk = true) ∧
    (e.clkFalling = true ↔ b.lastClk = true ∧ e.currentClk = false) ∧
    (e.sdaRising = true ↔ b.lastSda = false ∧ e.currentSda = true) ∧
    (e.sdaFalling = true ↔ b.lastSda = true ∧ e.currentSda = false)

/-- The conditions that R79 to R88 put on the edge flags ("That is …"): each event comes exactly on its own
edge pattern. -/
def Obligations.EventsComeExactlyOnTheirEdges : Prop :=
  ∀ (levels : Levels) (sclSel sdaSel : Sel) (s t : State) (e : EdgeInfo),
    exec (.sample levels sclSel sdaSel) s = .next t → e = s.bus.detectEdges levels sclSel sdaSel →
    (t.out.read = .ok (some .start) ↔
      e.sdaFalling = true ∧ e.currentClk = true ∧ s.bus.lastClk = true) ∧
    (t.out.read = .ok (some .stop) ↔
      e.sdaRising = true ∧ e.currentClk = true ∧ s.bus.lastClk = true) ∧
    (t.out.read = .ok (some (.bit true)) ↔ e.clkRising = true ∧ e.currentSda = true ∧
      s.bus.lastSda = true ∧ 0 < s.bus.bitsRemaining.toNat) ∧
    (t.out.read = .ok (some (.bit false)) ↔ e.clkRising = true ∧ e.currentSda = false ∧
      s.bus.lastSda = false ∧ 0 < s.bus.bitsRemaining.toNat) ∧
    (t.out.read = .ok (some (.nack (decodeOfR93 s.bus))) ↔ e.clkRising = true ∧ e.currentSda = true ∧
      s.bus.lastSda = true ∧ s.bus.bitsRemaining.toNat = 0) ∧
    (t.out.read = .ok (some (.ack (decodeOfR93 s.bus))) ↔ e.clkRising = true ∧
      e.currentSda = false ∧ s.bus.lastSda = false ∧ s.bus.bitsRemaining.toNat = 0)

/-- R75 item 2 over whole runs: two streams of input values whose edges are of the same kinds, and whose
SAMPLE edges agree on the two selected levels, lead to the same BusState and event registers. Nothing
else of a sample matters, nor of an edge that is no SAMPLE. -/
def Obligations.OnlyTheSelectedLevelsMatter : Prop :=
  ∀ (n : Nat) (s t : State) (ps qs : List Pins),
    List.Forall₂ (fun p q => p.rst = q.rst ∧ (p.rst = false → p.sampleValid = q.sampleValid ∧
      (p.sampleValid = true →
        p.levels.getLsbD p.sclSel.toNat = q.levels.getLsbD q.sclSel.toNat ∧
        p.levels.getLsbD p.sdaSel.toNat = q.levels.getLsbD q.sdaSel.toNat))) ps qs →
    Host.Core.run Sys2Proof.core n ({ s with inputs := ps } : Sys2Proof.Machine.State) = .next t →
    ∃ u : State, Host.Core.run Sys2Proof.core n ({ s with inputs := qs } : Sys2Proof.Machine.State) = .next u ∧
      u.bus = t.bus ∧ u.out = t.out

/-- R75 item 4: while the two selects are equal at every edge, from equal last levels, every record is
`None` and the byte, its counter and the address phase never change. -/
def Obligations.EqualSelectsDecodeNothing : Prop :=
  ∀ s t u : State, s.bus.lastClk = s.bus.lastSda →
    Runs (fun p _ => p.rst = false ∧ p.sclSel = p.sdaSel) s t →
    step t = .next u → t.fetch.rst = false → t.fetch.sclSel = t.fetch.sdaSel →
    u.bus.lastClk = u.bus.lastSda ∧ u.bus.bitsRemaining = s.bus.bitsRemaining ∧
    u.bus.value = s.bus.value ∧ u.bus.addressPhase = s.bus.addressPhase ∧
    (u.out.read = .ok none ∨ u.out.read = .ok (some .none))

/-! ## Consequences over several edges -/

/-- R133: the first sample after reset is compared with both lines high. -/
def Obligations.FirstSampleIsComparedWithAnIdleBus : Prop :=
  ∀ (levels : Levels) (sclSel sdaSel : Sel),
    (levels.getLsbD sclSel.toNat = true → levels.getLsbD sdaSel.toNat = true →
      exec (.sample levels sclSel sdaSel) State.reset = exec (.sclHighSdaHigh true false) State.reset) ∧
    (levels.getLsbD sclSel.toNat = true → levels.getLsbD sdaSel.toNat = false →
      exec (.sample levels sclSel sdaSel) State.reset = exec (.start true false) State.reset) ∧
    (levels.getLsbD sclSel.toNat = false →
      exec (.sample levels sclSel sdaSel) State.reset =
        exec (.sclFall true (levels.getLsbD sdaSel.toNat) true false) State.reset) ∧
    ∃ t, exec (.sample levels sclSel sdaSel) State.reset = .next t ∧
      t.out.read = .ok (some
        (if levels.getLsbD sclSel.toNat = true ∧ levels.getLsbD sdaSel.toNat = false
          then .start else .none))

/-- R98: before any START, the first SCL rise with SDA stable is the acknowledgement slot of an empty data
byte; whatever edges without an event came first do not change that. -/
def Obligations.FirstRiseBeforeAnyStartAcknowledgesAnEmptyByte : Prop :=
  ∀ (ins : List Pins) (s : State) (levels : Levels) (sclSel sdaSel : Sel),
    Runs (fun p u => p.rst = false ∧
      (u.out.read = .ok none ∨ u.out.read = .ok (some .none) ∨ u.out.read = .ok (some .stop)))
      { State.reset with inputs := ins } s →
    s.bus.lastClk = false → levels.getLsbD sclSel.toNat = true →
    levels.getLsbD sdaSel.toNat = s.bus.lastSda →
    ∃ t, exec (.sample levels sclSel sdaSel) s = .next t ∧
      (s.bus.lastSda = false → t.out.read = .ok (some (.ack (.data 0))) ∧
        t.bus.bitsRemaining = 8 ∧ t.bus.value = 0 ∧ t.bus.addressPhase = false) ∧
      (s.bus.lastSda = true → t.out.read = .ok (some (.nack (.data 0))) ∧
        t.bus.bitsRemaining = 0 ∧ t.bus.value = 0 ∧ t.bus.addressPhase = false)

/-- R103: any number of IDLE cycles before a sample leave its result as it would have been without them,
event registers included. In a state that a model does not step, both sides refuse alike, by the model's
readings of notes/assumptions/2.md and 3.md. -/
def Obligations.IdleCyclesDoNotChangeTheNextSample : Prop :=
  ∀ (idles : List Pins) (p : Pins) (rest : List Pins) (s : State),
    (∀ q ∈ idles, q.isIdle) → p.isSample →
    Host.Core.run Sys2Proof.core (idles.length + 1)
        ({ s with inputs := idles ++ p :: rest } : Sys2Proof.Machine.State) =
      step { s with inputs := p :: rest }

/-- R22 and R43: after a START or an ACK, and until the next one, the received bits stand in `value` from
bit 7 down in order of arrival, every other bit of it is 0, and `bitsRemaining` is 8 less their number. -/
def Obligations.ReceivedBitsStandInOrderFromTheTop : Prop :=
  ∀ (r s t : State) (e : Event) (bits : List Bool),
    step r = .next s → s.out.read = .ok (some e) → e.armsByte = true → Receives s bits t →
    bits.length ≤ 8 ∧ t.bus.bitsRemaining.toNat = 8 - bits.length ∧
    ∀ k, k < 8 → t.bus.value.getLsbD (7 - k) = bits.getD k false

/-- R96: after a NACK the acknowledgement slot of the same byte stays open until an ACK, a START or a RESET;
every later rise with SDA stable acknowledges the same payload again. -/
def Obligations.NackKeepsTheAcknowledgementSlotOpen : Prop :=
  ∀ (r s t : State) (p : Payload) (levels : Levels) (sclSel sdaSel : Sel),
    step r = .next s → s.out.read = .ok (some (.nack p)) → Runs KeepsByte s t →
    t.bus.bitsRemaining = 0 ∧ t.bus.value = s.bus.value ∧ t.bus.addressPhase = s.bus.addressPhase ∧
    (t.bus.lastClk = false → levels.getLsbD sclSel.toNat = true →
      levels.getLsbD sdaSel.toNat = t.bus.lastSda →
      ∃ u, exec (.sample levels sclSel sdaSel) t = .next u ∧
        (t.bus.lastSda = true → u.out.read = .ok (some (.nack p))) ∧
        (t.bus.lastSda = false → u.out.read = .ok (some (.ack p)) ∧
          u.bus.bitsRemaining = 8 ∧ u.bus.value = 0 ∧ u.bus.addressPhase = false))

/-- R97: the SCL rise that precedes a STOP is itself a data bit or an acknowledgement; the STOP sample then
changes nothing but the last levels. -/
def Obligations.RiseBeforeAStopIsSampled : Prop :=
  ∀ (l₁ l₂ : Levels) (sclSel sdaSel : Sel) (s : State), s.Steppable →
    s.bus.lastClk = false → s.bus.lastSda = false →
    l₁.getLsbD sclSel.toNat = true → l₁.getLsbD sdaSel.toNat = false →
    l₂.getLsbD sclSel.toNat = true → l₂.getLsbD sdaSel.toNat = true →
    ∃ t u, exec (.sample l₁ sclSel sdaSel) s = .next t ∧ exec (.sample l₂ sclSel sdaSel) t = .next u ∧
      u.out.read = .ok (some .stop) ∧ u.bus = { t.bus with lastSda := true } ∧
      (0 < s.bus.bitsRemaining.toNat → t.out.read = .ok (some (.bit false)) ∧
        u.bus.bitsRemaining.toNat + 1 = s.bus.bitsRemaining.toNat ∧ u.bus.value = s.bus.value ∧
        u.bus.addressPhase = s.bus.addressPhase) ∧
      (s.bus.bitsRemaining.toNat = 0 → t.out.read = .ok (some (.ack (decodeOfR93 s.bus))) ∧
        u.bus.bitsRemaining = 8 ∧ u.bus.value = 0 ∧ u.bus.addressPhase = false)

/-- R99: the SCL rise of a repeated START is reported as a 1 or as a NACK, and the START then arms an
address byte. -/
def Obligations.RiseBeforeARepeatedStartIsSampled : Prop :=
  ∀ (l₁ l₂ : Levels) (sclSel sdaSel : Sel) (s : State), s.Steppable →
    s.bus.lastClk = false → s.bus.lastSda = true →
    l₁.getLsbD sclSel.toNat = true → l₁.getLsbD sdaSel.toNat = true →
    l₂.getLsbD sclSel.toNat = true → l₂.getLsbD sdaSel.toNat = false →
    ∃ t u, exec (.sample l₁ sclSel sdaSel) s = .next t ∧ exec (.sample l₂ sclSel sdaSel) t = .next u ∧
      (0 < s.bus.bitsRemaining.toNat → t.out.read = .ok (some (.bit true))) ∧
      (s.bus.bitsRemaining.toNat = 0 → t.out.read = .ok (some (.nack (decodeOfR93 s.bus)))) ∧
      u.out.read = .ok (some .start) ∧ u.bus.bitsRemaining = 8 ∧ u.bus.value = 0 ∧
      u.bus.addressPhase = true

/-- The event registers feed nothing back: two states that differ only in them run alike, but for them. -/
def Obligations.EventRegistersDoNotInfluenceTheDecoding : Prop :=
  ∀ (n : Nat) (s t : State) (out : EventRegs),
    Host.Core.run Sys2Proof.core n s = .next t →
    ∃ out', Host.Core.run Sys2Proof.core n ({ s with out := out } : Sys2Proof.Machine.State) =
      .next ({ t with out := out' } : Sys2Proof.Machine.State)

/-! ## The invariant -/

/-- The reset state meets the invariant. -/
def Obligations.ResetStateMeetsTheInvariant : Prop := State.reset.Inv

/-- From every state of the invariant a step goes on, and to a state of the invariant: `bitsRemaining` stays
in 0 to 8 (R21), the unreceived bits of `value` stay 0 (R22), code 7 is never driven (R63). -/
def Obligations.EveryStepGoesOnAndKeepsTheInvariant : Prop :=
  ∀ s : State, s.Inv → ∃ t, step s = .next t ∧ t.Inv

/-- R113 and R58 over whole runs: from the reset state, under every finite stream of input values, no edge
stops the block, and every state on the way meets the invariant. -/
def Obligations.NoStreamOfInputsStopsTheBlock : Prop :=
  ∀ (n : Nat) (inputs : List Pins),
    ∃ t : State, Host.Core.run Sys2Proof.core n
      ({ State.reset with inputs := inputs } : Sys2Proof.Machine.State) = .next t ∧ t.Inv

/-! ## Encoding -/

/-- Decoding the words of an operation gives it back, with every operand at every value. -/
def Obligations.DecodeOfEncodeIsTheOperation : Prop :=
  ∀ i : Instr, i.wellFormed = true → decode (encode i) = i

/-- The other direction, where every bit of the words has a meaning: every decode word, and the input words
of a SAMPLE. -/
def Obligations.EncodeOfDecodeIsTheWord : Prop :=
  (∀ w : Dw, encode (decode (.dw w)) = .dw w) ∧
  ∀ (sw : Levels) (cfg : Cfg), encode (decode (.pins 0b01 sw cfg)) = .pins 0b01 sw cfg

/-- R57: every decode word belongs to exactly one row of the table, the row of the operation it decodes
to, and the rows' counts sum to 64. -/
def Obligations.RowsPartitionTheDecodeWords : Prop :=
  (∀ w : Dw, opcodeTable.filter (fun r => r.accepts (.dw w)) = [(decode (.dw w)).opcodeRow]) ∧
  (opcodeTable.map fun r =>
    (List.range 64).countP fun n => r.accepts (.dw (BitVec.ofNat 6 n))).sum = 64

/-- Words written out bit by bit from the encoding columns of R56 and R52. -/
def Obligations.WordsOfTheEncodingTableDecodeToTheirRows : Prop :=
  decode (.dw 0b111010) = .start true false ∧ decode (.dw 0b011101) = .bit1 true ∧
  decode (.dw 0b010011) = .ackAddr ∧ decode (.dw 0b110110) = .stop true false ∧
  decode (.dw 0b000110) = .sclLow false true true false ∧
  decode (.pins 0b11 0x00 0b000000) = .reset true ∧ decode (.pins 0b00 0xFF 0b111111) = .idle ∧
  decode (.pins 0b01 0xA5 0b111011) = .sample 0xA5 7 3

/-- A table number that stands for an operation, placed where the next step takes its operation from, is
run by that step. Which operation a number stands for and how it is placed are the model's choices
(notes/assumptions/4.md and 6.md, DESIGN CHOICE). -/
def Obligations.PlacedOperationIsTheOneRun : Prop :=
  ∀ (nbits w : Nat) (i : Instr) (s : State), decodeTableWord nbits w = some i →
    step (s.withFetchWord nbits w) = exec i (s.withFetchWord nbits w).advance

/-- R65: the sample of a pair shows the pair's levels at the selected pins and what the program says at
every other. Where the two selects name one pin, that pin shows the OR of the two levels: this clause is the
model's choice (notes/assumptions/10.md, DESIGN CHOICE), since R65 defines its macros only for distinct selects. -/
def Obligations.PairSampleShowsItsTwoLevels : Prop :=
  ∀ (sclSel sdaSel : Sel) (other : Levels) (c d : Bool),
    (pairPins sclSel sdaSel other (c, d)).isSample ∧
    (sclSel ≠ sdaSel →
      (pairPins sclSel sdaSel other (c, d)).levels.getLsbD sclSel.toNat = c ∧
      (pairPins sclSel sdaSel other (c, d)).levels.getLsbD sdaSel.toNat = d) ∧
    (sclSel = sdaSel → (pairPins sclSel sdaSel other (c, d)).levels.getLsbD sclSel.toNat = (c || d)) ∧
    ∀ k, k < 8 → k ≠ sclSel.toNat → k ≠ sdaSel.toNat →
      (pairPins sclSel sdaSel other (c, d)).levels.getLsbD k = other.getLsbD k
end

