-- ==== Sys2Proof/Laws/Decode.lean ====
section
/-! SUPPORT. The fields of the words, and which rows a decode word can select. -/

namespace Sys2Proof

theorem cwWord_rst (rst sv : Bool) : (cwWord rst sv).getLsbD 1 = rst := by
  cases rst <;> cases sv <;> decide

theorem cwWord_sampleValid (rst sv : Bool) : (cwWord rst sv).getLsbD 0 = sv := by
  cases rst <;> cases sv <;> decide

@[simp] theorem cfgWord_sclSel (c d : Sel) : (cfgWord c d).extractLsb' 3 3 = c := by
  revert c d; decide

@[simp] theorem cfgWord_sdaSel (c d : Sel) : (cfgWord c d).extractLsb' 0 3 = d := by
  revert c d; decide

/-- The decode word loses none of its six bits. -/
@[simp] theorem dwBits_word (b : DwBits) : dwBits b.word = b := by
  obtain ⟨a, b, c, d, e, f⟩ := b
  cases a <;> cases b <;> cases c <;> cases d <;> cases e <;> cases f <;> rfl

/-- A decode word of given bits. -/
theorem dwBits_eq {w : Dw} {b : DwBits} (h5 : w.getLsbD 5 = b.lastClk) (h4 : w.getLsbD 4 = b.currentClk)
    (h3 : w.getLsbD 3 = b.lastSda) (h2 : w.getLsbD 2 = b.currentSda) (h1 : w.getLsbD 1 = b.bz)
    (h0 : w.getLsbD 0 = b.addressPhase) : dwBits w = b := by
  simp only [dwBits, h5, h4, h3, h2, h1, h0]

/-- What the input ports select at an edge (R52). -/
theorem decodePins_words (rst sv : Bool) (sw : Levels) (c d : Sel) :
    decodePins (cwWord rst sv) sw (cfgWord c d)
      = if rst then .reset sv else if sv then .sample sw c d else .idle := by
  simp only [decodePins, cwWord_rst, cwWord_sampleValid, cfgWord_sclSel, cfgWord_sdaSel]

namespace Laws

/-- A decode word selects a row of format DW. -/
theorem rowOf_format (b : DwBits) : (rowOf b).opcodeRow.format = .dw := by
  obtain ⟨a, b, c, d, e, f⟩ := b
  cases a <;> cases b <;> cases c <;> cases d <;> cases e <;> cases f <;> rfl

end Laws

end Sys2Proof
end

