-- ==== Sys2Proof/Laws/State.lean ====
section
/-! SUPPORT. One lemma for each field of each update of the state, and what the state's readers answer after it. -/

namespace Sys2Proof.Machine

@[simp] theorem byteBits_eq : Config.byteBits = 8 := rfl

/-! ## openByte -/

@[simp] theorem openByte_lastClk (b : BusState) (a : Bool) : (b.openByte a).lastClk = b.lastClk := rfl
@[simp] theorem openByte_lastSda (b : BusState) (a : Bool) : (b.openByte a).lastSda = b.lastSda := rfl
@[simp] theorem openByte_bitsRemaining (b : BusState) (a : Bool) : (b.openByte a).bitsRemaining = 8 := rfl
@[simp] theorem openByte_value (b : BusState) (a : Bool) : (b.openByte a).value = 0 := rfl
@[simp] theorem openByte_addressPhase (b : BusState) (a : Bool) : (b.openByte a).addressPhase = a := rfl

/-! ## countBit -/

@[simp] theorem countBit_lastClk (b : BusState) : b.countBit.lastClk = b.lastClk := rfl
@[simp] theorem countBit_lastSda (b : BusState) : b.countBit.lastSda = b.lastSda := rfl
@[simp] theorem countBit_bitsRemaining (b : BusState) :
    b.countBit.bitsRemaining = b.bitsRemaining - 1 := rfl
@[simp] theorem countBit_value (b : BusState) : b.countBit.value = b.value := rfl
@[simp] theorem countBit_addressPhase (b : BusState) : b.countBit.addressPhase = b.addressPhase := rfl

/-! ## orBit -/

@[simp] theorem orBit_lastClk (b : BusState) (n : Nat) : (b.orBit n).lastClk = b.lastClk := rfl
@[simp] theorem orBit_lastSda (b : BusState) (n : Nat) : (b.orBit n).lastSda = b.lastSda := rfl
@[simp] theorem orBit_bitsRemaining (b : BusState) (n : Nat) :
    (b.orBit n).bitsRemaining = b.bitsRemaining := rfl
@[simp] theorem orBit_value (b : BusState) (n : Nat) : (b.orBit n).value = b.value ||| (1#8 <<< n) := rfl
@[simp] theorem orBit_addressPhase (b : BusState) (n : Nat) :
    (b.orBit n).addressPhase = b.addressPhase := rfl

/-! ## receiveOne -/

@[simp] theorem receiveOne_lastClk (b : BusState) : b.receiveOne.lastClk = b.lastClk := rfl
@[simp] theorem receiveOne_lastSda (b : BusState) : b.receiveOne.lastSda = b.lastSda := rfl
@[simp] theorem receiveOne_bitsRemaining (b : BusState) :
    b.receiveOne.bitsRemaining = b.bitsRemaining - 1 := rfl
@[simp] theorem receiveOne_value (b : BusState) :
    b.receiveOne.value = b.value ||| (1#8 <<< (b.bitsRemaining - 1).toNat) := rfl
@[simp] theorem receiveOne_addressPhase (b : BusState) : b.receiveOne.addressPhase = b.addressPhase := rfl

/-! ## setLevels -/

@[simp] theorem setLevels_lastClk (b : BusState) (c d : Bool) : (b.setLevels c d).lastClk = c := rfl
@[simp] theorem setLevels_lastSda (b : BusState) (c d : Bool) : (b.setLevels c d).lastSda = d := rfl
@[simp] theorem setLevels_bitsRemaining (b : BusState) (c d : Bool) :
    (b.setLevels c d).bitsRemaining = b.bitsRemaining := rfl
@[simp] theorem setLevels_value (b : BusState) (c d : Bool) : (b.setLevels c d).value = b.value := rfl
@[simp] theorem setLevels_addressPhase (b : BusState) (c d : Bool) :
    (b.setLevels c d).addressPhase = b.addressPhase := rfl

/-! ## record and expire -/

@[simp] theorem record_valid (e : Event) : e.record.valid = true := rfl
@[simp] theorem record_code (e : Event) : e.record.code = e.code := rfl
@[simp] theorem record_kind (e : Event) : e.record.kind = e.kind := rfl
@[simp] theorem record_byte (e : Event) : e.record.byte = e.byte := rfl
@[simp] theorem expire_valid (r : EventRegs) : r.expire.valid = false := rfl
@[simp] theorem expire_code (r : EventRegs) : r.expire.code = r.code := rfl
@[simp] theorem expire_kind (r : EventRegs) : r.expire.kind = r.kind := rfl
@[simp] theorem expire_byte (r : EventRegs) : r.expire.byte = r.byte := rfl

/-! ## advance and fetch -/

@[simp] theorem advance_bus (s : State) : s.advance.bus = s.bus := rfl
@[simp] theorem advance_out (s : State) : s.advance.out = s.out := rfl
@[simp] theorem advance_resetSeen (s : State) : s.advance.resetSeen = s.resetSeen := rfl
@[simp] theorem advance_inputs (s : State) : s.advance.inputs = s.inputs.tail := rfl

theorem fetch_of_nil {s : State} (h : s.inputs = []) : s.fetch = Pins.quiet := by
  simp [State.fetch, h]

theorem fetch_of_cons {s : State} {p : Pins} {rest : List Pins} (h : s.inputs = p :: rest) :
    s.fetch = p := by
  simp [State.fetch, h]

theorem advance_steppable {s : State} : s.advance.Steppable ↔ s.Steppable := Iff.rfl

end Sys2Proof.Machine
end

