-- ==== Sys2Proof/Laws/Ops.lean ====
section
/-! SUPPORT. What each shared operation can do, said once: the guard, a row, a SAMPLE, a step; and the record of an event. -/

namespace Sys2Proof.Machine

/-! ## The guard -/

theorem refusal_eq_none {s : State} : s.refusal = none ↔ s.Steppable := by
  unfold State.refusal State.Steppable
  cases s.resetSeen <;> simp

theorem guarded_of_steppable {s : State} (h : s.Steppable) (r : Result) : s.guarded r = r := by
  simp [State.guarded, refusal_eq_none.2 h]

theorem guarded_next {s t : State} {r : Result} (h : s.guarded r = .next t) : s.Steppable ∧ r = .next t := by
  unfold State.guarded at h
  split at h
  · cases h
  · next hn => exact ⟨refusal_eq_none.1 hn, h⟩

theorem guarded_ne_fault {s : State} {r : Result} {f : Fault} (h : r ≠ .fault f) :
    s.guarded r ≠ .fault f := by
  unfold State.guarded
  split
  · simp
  · exact h

/-! ## One row -/

/-- A row is performed where its decode word is the state's. -/
theorem performRow_of_selected {s : State} {d : DwBits} (hs : s.Steppable)
    (hd : s.bus.decodeBits d.currentClk d.currentSda = d) (b : BusState) (e : Event) :
    s.performRow d b e
      = .next { s with bus := b.setLevels d.currentClk d.currentSda, out := e.record } := by
  simp [State.performRow, guarded_of_steppable hs, hd]

/-- All that a row can do when it answers a next state. -/
theorem performRow_next {s t : State} {d : DwBits} {b : BusState} {e : Event}
    (h : s.performRow d b e = .next t) :
    s.Steppable ∧ s.bus.decodeBits d.currentClk d.currentSda = d ∧
      t = { s with bus := b.setLevels d.currentClk d.currentSda, out := e.record } := by
  obtain ⟨hs, hr⟩ := guarded_next h
  split at hr
  · next hd =>
    simp only [Host.Outcome.next.injEq] at hr
    exact ⟨hs, hd, hr.symm⟩
  · cases hr

theorem performRow_ne_fault (s : State) (d : DwBits) (b : BusState) (e : Event) (f : Fault) :
    s.performRow d b e ≠ .fault f := by
  refine guarded_ne_fault ?_
  split <;> simp

/-! ## SAMPLE -/

@[simp] theorem detectEdges_currentClk (b : BusState) (l : Levels) (c d : Sel) :
    (b.detectEdges l c d).currentClk = l.getLsbD c.toNat := rfl

@[simp] theorem detectEdges_currentSda (b : BusState) (l : Levels) (c d : Sel) :
    (b.detectEdges l c d).currentSda = l.getLsbD d.toNat := rfl

/-- Inside a SAMPLE step a row runs as it does on its own. -/
theorem performSelected_eq_exec {i : Instr} (h : i.opcodeRow.format = .dw) (s : State) :
    performSelected i s = exec i s := by
  cases i <;> first | rfl | simp [Instr.opcodeRow] at h

/-- A SAMPLE step is the row that its decode word selects. -/
theorem execSample_eq_row (l : Levels) (c d : Sel) (s : State) :
    execSample l c d s
      = exec (rowOf (s.bus.decodeBits (l.getLsbD c.toNat) (l.getLsbD d.toNat))) s := by
  simp only [execSample, decode, dwBits_word, detectEdges_currentClk, detectEdges_currentSda]
  exact performSelected_eq_exec (Laws.rowOf_format _) s

/-! ## A step -/

/-- The operation of an edge, by its ports. -/
theorem decode_code (p : Pins) :
    decode p.code = if p.rst then .reset p.sampleValid
      else if p.sampleValid then .sample p.levels p.sclSel p.sdaSel else .idle :=
  decodePins_words _ _ _ _ _

/-- All that a step can be: RESET, SAMPLE or IDLE. -/
theorem step_cases (s : State) :
    (s.fetch.rst = true ∧ step s = execReset s.fetch.sampleValid s.advance) ∨
    (s.fetch.isSample ∧ step s = execSample s.fetch.levels s.fetch.sclSel s.fetch.sdaSel s.advance) ∨
    (s.fetch.isIdle ∧ step s = execIdle s.advance) := by
  unfold step Pins.isSample Pins.isIdle
  rw [decode_code]
  cases hr : s.fetch.rst <;> cases hv : s.fetch.sampleValid <;> simp [exec]

/-! ## Payloads and records -/

@[simp] theorem addressPayload_byte (b : BusState) : b.addressPayload.byte = b.value := by
  simp only [BusState.addressPayload, Payload.byte, directionOf]
  generalize b.value = v
  revert v; decide

@[simp] theorem dataPayload_byte (b : BusState) : b.dataPayload.byte = b.value := rfl
@[simp] theorem addressPayload_kind (b : BusState) : b.addressPayload.kind = true := rfl
@[simp] theorem dataPayload_kind (b : BusState) : b.dataPayload.kind = false := rfl

/-- Every record is one that R105 yields. -/
theorem record_encoded (e : Event) : e.record.Encoded := by
  unfold EventRegs.Encoded
  cases e with
  | bit b => cases b <;> simp [Event.record, Event.code, Event.kind, Event.byte]
  | _ => simp [Event.record, Event.code, Event.kind, Event.byte]

theorem expire_encoded {r : EventRegs} (h : r.Encoded) : r.expire.Encoded := h

/-! ## Cells of BusState -/

theorem openByte_clear (b : BusState) (a : Bool) : (b.openByte a).Clear := by
  intro i _
  simp

end Sys2Proof.Machine
end

