-- ==== Sys2Proof/Laws/PerInstr.lean ====
section
/-! SUPPORT. Families of statements made for every operation. EncodesInOwnRow: the words an operation is encoded to belong to its own row of the opcode table, by that row's mask and value. -/

namespace Sys2Proof.Laws.EncodesInOwnRow

/-- The encoded words have the format of the operation's row and match it (R56, R67). -/
def Statement (i : Instr) : Prop := i.opcodeRow.accepts (encode i) = true

theorem start (bz ap : Bool) : Statement (.start bz ap) := by cases bz <;> cases ap <;> rfl
theorem bit1 (ap : Bool) : Statement (.bit1 ap) := by cases ap <;> rfl
theorem nackAddr : Statement .nackAddr := rfl
theorem nackData : Statement .nackData := rfl
theorem bit0 (ap : Bool) : Statement (.bit0 ap) := by cases ap <;> rfl
theorem ackAddr : Statement .ackAddr := rfl
theorem ackData : Statement .ackData := rfl
theorem riseSdaFall (bz ap : Bool) : Statement (.riseSdaFall bz ap) := by cases bz <;> cases ap <;> rfl
theorem riseSdaRise (bz ap : Bool) : Statement (.riseSdaRise bz ap) := by cases bz <;> cases ap <;> rfl
theorem stop (bz ap : Bool) : Statement (.stop bz ap) := by cases bz <;> cases ap <;> rfl
theorem sclLow (ls cs bz ap : Bool) : Statement (.sclLow ls cs bz ap) := by
  cases ls <;> cases cs <;> cases bz <;> cases ap <;> rfl
theorem sclFall (ls cs bz ap : Bool) : Statement (.sclFall ls cs bz ap) := by
  cases ls <;> cases cs <;> cases bz <;> cases ap <;> rfl
theorem sclHighSdaLow (bz ap : Bool) : Statement (.sclHighSdaLow bz ap) := by
  cases bz <;> cases ap <;> rfl
theorem sclHighSdaHigh (bz ap : Bool) : Statement (.sclHighSdaHigh bz ap) := by
  cases bz <;> cases ap <;> rfl
theorem reset (sv : Bool) : Statement (.reset sv) := by cases sv <;> rfl
theorem idle : Statement .idle := rfl
theorem sample (l : Levels) (c d : Sel) : Statement (.sample l c d) := by
  show (decide (Format.cw = Format.cw) && decide ((cwWord false true).toNat &&& 0x3 = 0x1)) = true
  decide

end Sys2Proof.Laws.EncodesInOwnRow
end

