-- ==== Sys2Proof/Tests/Slice0.lean ====
section
/-! SUPPORT. The model's own tests. Expected results are the tables of spec/95_test_vectors.md (V1 to V38, section 4) and the examples of the rules; the witnesses show that the hypotheses of each statement can be met together. -/

namespace Sys2Proof.Tests

open Sys2Proof.Machine

/-! ## Helpers -/

/-- A state after some RESET, with the BusState that the vectors write `(lastClk, lastSda, bitsRemaining, value, addressPhase)`. -/
def busAt (lc ls : Bool) (br : BitVec 4) (v : BitVec 8) (ap : Bool) : State :=
  { State.reset with bus := ⟨lc, ls, br, v, ap⟩ }

/-- BusState and event registers of the next state, if there is one. -/
def shown : Result → Option (BusState × EventRegs)
  | .next t => some (t.bus, t.out)
  | .fault _ => none
  | .refused _ => none

/-- One SAMPLE with `scl_sel = 0` and `sda_sel = 1`. -/
def sampleOn (l : Levels) (s : State) : Option (BusState × EventRegs) := shown (exec (.sample l 0 1) s)

/-- Whether a step goes on. -/
def goesOn : Result → Bool
  | .next _ => true
  | .fault _ => false
  | .refused _ => false

/-! ## Well-formedness: each check refuses an ill-formed term -/

theorem test_wf_scl_index_out_of_range : HostConfig.inRange ⟨8, 1⟩ = false := by decide
theorem test_wf_sda_index_out_of_range : HostConfig.selects ⟨0, 8⟩ = none := by decide
theorem test_wf_top_index_in_range : HostConfig.selects ⟨7, 0⟩ = some (7, 0) := by decide
theorem test_wf_equal_indices_not_distinct : HostConfig.distinct ⟨3, 3⟩ = false := by decide

/-! ## Decoding: words written out from the encoding columns of R56 and R52 -/

theorem test_decode_start : decode (.dw 0b111010) = .start true false := by decide
theorem test_decode_bit1 : decode (.dw 0b011101) = .bit1 true := by decide
theorem test_decode_nackAddr : decode (.dw 0b011111) = .nackAddr := by decide
theorem test_decode_nackData : decode (.dw 0b011110) = .nackData := by decide
theorem test_decode_bit0 : decode (.dw 0b010001) = .bit0 true := by decide
theorem test_decode_ackAddr : decode (.dw 0b010011) = .ackAddr := by decide
theorem test_decode_ackData : decode (.dw 0b010010) = .ackData := by decide
theorem test_decode_riseSdaFall : decode (.dw 0b011001) = .riseSdaFall false true := by decide
theorem test_decode_riseSdaRise : decode (.dw 0b010110) = .riseSdaRise true false := by decide
theorem test_decode_stop : decode (.dw 0b110111) = .stop true true := by decide
theorem test_decode_sclLow : decode (.dw 0b001001) = .sclLow true false false true := by decide
theorem test_decode_sclFall : decode (.dw 0b100101) = .sclFall false true false true := by decide
theorem test_decode_sclHighSdaLow : decode (.dw 0b110001) = .sclHighSdaLow false true := by decide
theorem test_decode_sclHighSdaHigh : decode (.dw 0b111110) = .sclHighSdaHigh true false := by decide
theorem test_decode_reset : decode (.pins 0b11 0x01 0b000001) = .reset true := by decide
theorem test_decode_idle : decode (.pins 0b00 0x3F 0b000001) = .idle := by decide
theorem test_decode_sample : decode (.pins 0b01 0xA5 0b111011) = .sample 0xA5 7 3 := by decide

/-- The table numbers: a CW below 4, a DW above, nothing above six bits. -/
theorem test_table_numbers :
    decodeTableWord 8 0x02 = some (.reset false) ∧ decodeTableWord 8 0x00 = some .idle ∧
    decodeTableWord 8 0x01 = some (.sample 0 0 0) ∧ decodeTableWord 6 0x00 = some (.sclLow false false false false) ∧
    decodeTableWord 8 0x0C = some (.sclLow true true false false) ∧ decodeTableWord 8 0x40 = none := by decide

/-- Every row of the table, as a number, runs as the first operation after reset. -/
theorem test_every_row_runs_after_reset :
    ∀ n ∈ [0x38, 0x1C, 0x1F, 0x1E, 0x10, 0x13, 0x12, 0x18, 0x14, 0x34, 0x0C, 0x20, 0x30, 0x3C, 0, 1, 2, 3],
      goesOn (step (State.reset.withFetchWord 8 n)) = true := by decide

/-! ## Rows (spec/95_test_vectors.md section 3; the last two columns of each vector) -/

theorem test_V2_start_discards_the_byte :
    sampleOn 0x01 (busAt true true 3 0xA8 false) = some (⟨true, false, 8, 0x00, true⟩, ⟨true, 1, false, 0x00⟩) := by
  decide
theorem test_V6_bit1 :
    sampleOn 0x03 (busAt false true 4 0xA0 true) = some (⟨true, true, 3, 0xA8, true⟩, ⟨true, 3, false, 0x00⟩) := by
  decide
theorem test_V7_bit1_last :
    sampleOn 0x03 (busAt false true 1 0xFE false) = some (⟨true, true, 0, 0xFF, false⟩, ⟨true, 3, false, 0x00⟩) := by
  decide
theorem test_V8_nackAddr :
    sampleOn 0x03 (busAt false true 0 0x4E true) = some (⟨true, true, 0, 0x4E, true⟩, ⟨true, 5, true, 0x4E⟩) := by
  decide
theorem test_V12_nackData :
    sampleOn 0x03 (busAt false true 0 0x5A false) = some (⟨true, true, 0, 0x5A, false⟩, ⟨true, 5, false, 0x5A⟩) := by
  decide
theorem test_V15_bit0_last :
    sampleOn 0x01 (busAt false false 1 0xFE false) = some (⟨true, false, 0, 0xFE, false⟩, ⟨true, 2, false, 0x00⟩) := by
  decide
theorem test_V17_ackAddr :
    sampleOn 0x01 (busAt false false 0 0xD1 true) = some (⟨true, false, 8, 0x00, false⟩, ⟨true, 4, true, 0xD1⟩) := by
  decide
theorem test_V18_ackData :
    sampleOn 0x01 (busAt false false 0 0x3C false) = some (⟨true, false, 8, 0x00, false⟩, ⟨true, 4, false, 0x3C⟩) := by
  decide
theorem test_V22_riseSdaFall :
    sampleOn 0x01 (busAt false true 0 0xA0 true) = some (⟨true, false, 0, 0xA0, true⟩, ⟨true, 0, false, 0x00⟩) := by
  decide
theorem test_V23_riseSdaRise :
    sampleOn 0x03 (busAt false false 8 0x00 false) = some (⟨true, true, 8, 0x00, false⟩, ⟨true, 0, false, 0x00⟩) := by
  decide
theorem test_V26_stop :
    sampleOn 0x03 (busAt true false 0 0x4E true) = some (⟨true, true, 0, 0x4E, true⟩, ⟨true, 6, false, 0x00⟩) := by
  decide
theorem test_V28_sclLow :
    sampleOn 0x00 (busAt false true 6 0x80 true) = some (⟨false, false, 6, 0x80, true⟩, ⟨true, 0, false, 0x00⟩) := by
  decide
theorem test_V29_sclFall :
    sampleOn 0x00 (busAt true true 7 0x80 true) = some (⟨false, false, 7, 0x80, true⟩, ⟨true, 0, false, 0x00⟩) := by
  decide
theorem test_V32_sclHighSdaLow :
    sampleOn 0x01 (busAt true false 8 0x00 true) = some (⟨true, false, 8, 0x00, true⟩, ⟨true, 0, false, 0x00⟩) := by
  decide
theorem test_V33_sclHighSdaHigh :
    sampleOn 0x03 (busAt true true 0 0x00 false) = some (⟨true, true, 0, 0x00, false⟩, ⟨true, 0, false, 0x00⟩) := by
  decide

/-! ## Cycle operations (section 4, edges 9 and 3; section 3.1, V38) -/

/-- The example of R102, with `sample_valid = 1` as in edge 9. -/
theorem test_reset_wins :
    shown (step { busAt false false 3 0xA0 true with inputs := [⟨true, true, 0x01, 0, 1⟩] })
      = some (⟨true, true, 0, 0x00, false⟩, ⟨false, 0, false, 0x00⟩) := by decide

/-- Edge 3: `ev_valid` drops, `ev_code` stays. -/
theorem test_idle_keeps_the_code :
    shown (step { busAt true false 8 0x00 true with out := ⟨true, 1, false, 0x00⟩, inputs := [⟨false, false, 0x3F, 0, 1⟩] })
      = some (⟨true, false, 8, 0x00, true⟩, ⟨false, 1, false, 0x00⟩) := by decide

/-- V38: selects 7 and 3, noise on the other pins. -/
theorem test_V38_selects :
    shown (step { busAt false true 7 0x80 true with inputs := [⟨false, true, 0xFE, 7, 3⟩] })
      = some (⟨true, true, 6, 0xC0, true⟩, ⟨true, 3, false, 0x00⟩) := by decide

/-! ## Edge detector (section 2.2) and host side (R65, R110) -/

theorem test_levels_of_0xA5 :
    lineLevel 0xA5 7 = true ∧ lineLevel 0xA5 6 = false ∧ lineLevel 0x7F 7 = false ∧ lineLevel 0x04 2 = true := by
  decide

/-- The example of R68. -/
theorem test_edges :
    BusState.reset.detectEdges 0x01 0 1 = ⟨true, false, false, false, false, true⟩ := by decide

/-- The first four words of P3 (section 5). -/
theorem test_stream_of_P3 :
    (streamPins quietOthers 0 0 1 [.bus (.i2cBit false), .pair true true]).map (·.map Pins.levels)
      = some [0x00, 0x01, 0x00, 0x03] := by decide

/-- The first five words of P4, with its noise `(k * 0x35) & 0x77`. -/
theorem test_noise_of_P4 :
    (streamPins (fun k => BitVec.ofNat 8 (k * 0x35) &&& 0x77) 0 7 3
        [.bus .busIdle, .bus .i2cStart, .bus (.i2cBit true)]).map (·.map Pins.levels)
      = some [0x88, 0xB5, 0x62, 0x1F, 0xDC, 0x09] := by decide

/-- Under equal selects a macro has no expansion and a pair has its sample (R65). -/
theorem test_equal_selects_in_a_listing : streamPins quietOthers 0 2 2 [.bus .busIdle] = none ∧
    streamPins quietOthers 0 2 2 [.pair true false] = some [Pins.ofSample 0x04 2 2] := by decide

/-- Two formats that the OPEN parameters allow, one without padding. -/
theorem test_number_formats :
    writeNumber ⟨16, 2, "0x", '0', true⟩ 0x0A = "0x0A" ∧ writeNumber ⟨10, 0, "", '0', false⟩ 39 = "39" := by
  decide

/-- The labels of R110 without a number in them. -/
theorem test_labels (f g : Config.NumberFormat) :
    Event.label f g .start = "START" ∧ Event.label f g (.bit false) = "0" ∧ Event.label f g (.bit true) = "1" ∧
    Event.label f g .stop = "STOP" ∧ Event.label f g .none = "" := ⟨rfl, rfl, rfl, rfl, rfl⟩

/-! ## Witnesses: reset, cycle operations, the step -/

theorem witness_ResetWins : ∃ (s : State) (p : Pins) (rest : List Pins), s.inputs = p :: rest ∧ p.rst = true :=
  ⟨{ busAt false false 3 0xA0 true with inputs := [⟨true, true, 1, 0, 1⟩] }, _, _, rfl, rfl⟩

/-- `Steppable` at both ends of the range of `bitsRemaining`. -/
theorem witness_Steppable : (busAt true true 0 0 false).Steppable ∧ (busAt true false 8 0 true).Steppable := by
  decide

theorem witness_StepRuns_with_inputs : ∃ (s : State) (p : Pins) (rest : List Pins), s.inputs = p :: rest :=
  ⟨{ State.reset with inputs := [Pins.quiet] }, _, _, rfl⟩

theorem witness_StepRuns_past_the_inputs : State.reset.inputs = [] := rfl

/-- V6: the word 0x1D. -/
theorem witness_SamplePerformsTheRow :
    let s := busAt false true 4 0xA0 true
    let w : Dw := 0x1D
    w.getLsbD 5 = s.bus.lastClk ∧ w.getLsbD 4 = (0x03 : Levels).getLsbD (0 : Sel).toNat ∧
    w.getLsbD 3 = s.bus.lastSda ∧ w.getLsbD 2 = (0x03 : Levels).getLsbD (1 : Sel).toNat ∧
    w.getLsbD 1 = decide (s.bus.bitsRemaining = 0) ∧ w.getLsbD 0 = s.bus.addressPhase := by decide

/-! ## Witnesses: the rows -/

theorem witness_Start : let s := busAt true true 0 0 false
    s.Steppable ∧ s.bus.lastClk = true ∧ s.bus.lastSda = true ∧
    true = decide (s.bus.bitsRemaining = 0) ∧ false = s.bus.addressPhase := by decide

/-- At both ends: the first bit of a byte and the last. -/
theorem witness_BitOne : ∀ br ∈ [(8 : BitVec 4), 1], let s := busAt false true br 0 true
    s.Steppable ∧ s.bus.lastClk = false ∧ s.bus.lastSda = true ∧ 0 < s.bus.bitsRemaining.toNat ∧
    true = s.bus.addressPhase := by decide

theorem witness_BitZero : ∀ br ∈ [(8 : BitVec 4), 1], let s := busAt false false br 0 true
    s.Steppable ∧ s.bus.lastClk = false ∧ s.bus.lastSda = false ∧ 0 < s.bus.bitsRemaining.toNat ∧
    true = s.bus.addressPhase := by decide

/-- NACK_ADDR and NACK_DATA (`sda` true), ACK_ADDR and ACK_DATA (`sda` false), by address phase. -/
theorem witness_AcknowledgementRows : ∀ sda ∈ [true, false], ∀ ap ∈ [true, false],
    let s := busAt false sda 0 0x4E ap
    s.Steppable ∧ s.bus.lastClk = false ∧ s.bus.lastSda = sda ∧ s.bus.bitsRemaining = 0 ∧
    s.bus.addressPhase = ap := by decide

/-- The rows whose word leaves `bz` and `ap` untested: any last levels, at a slot and inside a byte. -/
theorem witness_RowsThatTestOnlyLevels : ∀ lc ∈ [true, false], ∀ ls ∈ [true, false], ∀ br ∈ [(0 : BitVec 4), 8],
    let s := busAt lc ls br 0 true
    s.Steppable ∧ s.bus.lastClk = lc ∧ s.bus.lastSda = ls ∧
    decide (br = 0) = decide (s.bus.bitsRemaining = 0) ∧ true = s.bus.addressPhase := by decide

/-! ## Witnesses: frames and writers -/

/-- Each row of the first frame answers a next state somewhere. -/
theorem witness_FrameOfRowsThatWriteOnlyTheLastLevels :
    (∃ t, exec .nackAddr (busAt false true 0 0x4E true) = .next t) ∧
    (∃ t, exec .nackData (busAt false true 0 0x4E false) = .next t) ∧
    (∃ t, exec (.riseSdaFall false true) (busAt false true 5 0 true) = .next t) ∧
    (∃ t, exec (.riseSdaRise false true) (busAt false false 5 0 true) = .next t) ∧
    (∃ t, exec (.stop false true) (busAt true false 7 0 true) = .next t) ∧
    (∃ t, exec (.sclLow true false false true) (busAt false true 6 0 true) = .next t) ∧
    (∃ t, exec (.sclFall true false false true) (busAt true true 6 0 true) = .next t) ∧
    (∃ t, exec (.sclHighSdaLow false true) (busAt true false 8 0 true) = .next t) ∧
    ∃ t, exec (.sclHighSdaHigh true false) State.reset = .next t :=
  ⟨⟨_, rfl⟩, ⟨_, rfl⟩, ⟨_, rfl⟩, ⟨_, rfl⟩, ⟨_, rfl⟩, ⟨_, rfl⟩, ⟨_, rfl⟩, ⟨_, rfl⟩, ⟨_, rfl⟩⟩

theorem witness_FrameOfRowsThatWriteTheByte :
    (∃ t, exec (.bit1 true) (busAt false true 8 0 true) = .next t) ∧
    (∃ t, exec (.bit0 true) (busAt false false 8 0 true) = .next t) ∧
    (∃ t, exec .ackAddr (busAt false false 0 0 true) = .next t) ∧
    (∃ t, exec .ackData (busAt false false 0 0 false) = .next t) ∧
    ∃ t, exec (.start true false) State.reset = .next t :=
  ⟨⟨_, rfl⟩, ⟨_, rfl⟩, ⟨_, rfl⟩, ⟨_, rfl⟩, ⟨_, rfl⟩⟩

theorem witness_FrameOfCycleOperations :
    (∃ t, exec .idle State.reset = .next t) ∧ (∃ t, exec (.reset true) State.reset = .next t) ∧
    ∃ t, exec (.sample 0x01 0 1) State.reset = .next t :=
  ⟨⟨_, rfl⟩, ⟨_, rfl⟩, ⟨_, rfl⟩⟩

/-- A step of each kind: a SAMPLE that changes BusState, a RESET, an IDLE. -/
theorem witness_Writers :
    (∃ s t, step s = .next t ∧ s.fetch.isSample ∧ t.bus ≠ s.bus) ∧
    (∃ s t, step s = .next t ∧ s.fetch.rst = true ∧ t.bus ≠ s.bus) ∧
    (∃ s t, step s = .next t ∧ s.fetch.isIdle ∧ s.fetch.rst = false) :=
  ⟨⟨{ State.reset with inputs := [Pins.ofSample 0x01 0 1] }, _, rfl, by decide, by decide⟩,
   ⟨{ busAt false false 3 0 true with inputs := [⟨true, false, 0, 0, 0⟩] }, _, rfl, by decide, by decide⟩,
   ⟨State.reset, _, rfl, by decide, by decide⟩⟩

/-- Each kind of record that the clauses on writers tell apart is left by some step: what was read, and the
BusState that stands beside it. -/
theorem witness_WriterClauses :
    ∀ x ∈ [(busAt true true 0 0 false, (0x01 : Levels), Event.start),
           (busAt false true 8 0 true, 0x03, .bit true), (busAt false false 1 0 true, 0x01, .bit false),
           (busAt false false 0 0xA0 true, 0x01, .ack (.address 0x50 .write)),
           (busAt false true 0 0xA0 false, 0x03, .nack (.data 0xA0)),
           (busAt true false 7 0 false, 0x03, .stop), (busAt true true 0 0 false, 0x03, .none)],
      (shown (step { x.1 with inputs := [Pins.ofSample x.2.1 0 1] })).map (fun y => y.2)
        = some x.2.2.record ∧ x.2.2.record.read.toOption = some (some x.2.2) := by decide

/-! ## Witnesses: refusals -/

theorem witness_BeforeTheFirstReset : ({ State.reset with resetSeen := false } : State).resetSeen = false ∧
    (∀ sv, Instr.idle ≠ .reset sv) := by decide

theorem witness_CounterAboveEight : ∀ br ∈ [(9 : BitVec 4), 15],
    (busAt true true br 0 false).resetSeen = true ∧ 9 ≤ (busAt true true br 0 false).bus.bitsRemaining.toNat := by
  decide

/-- Both sides of the guard: the state's own word, and another row's word. -/
theorem witness_RowOfAnotherDecodeWord : State.reset.Steppable ∧
    goesOn (exec (decode (.dw 0x3E)) State.reset) = true ∧
    goesOn (exec (decode (.dw 0x1C)) State.reset) = false := by decide

/-! ## Witnesses: ports, edges -/

theorem witness_AddressPorts :
    (∃ t, exec .ackAddr (busAt false false 0 0xD1 true) = .next t ∧ t.outputs.evAddr = 0x68 ∧ t.outputs.evDir = true) ∧
    ∃ t, exec .nackAddr (busAt false true 0 0x4E true) = .next t ∧ t.outputs.evAddr = 0x27 ∧ t.outputs.evDir = false :=
  ⟨⟨_, rfl, by decide, by decide⟩, ⟨_, rfl, by decide, by decide⟩⟩

theorem witness_EdgeDetector : ∃ e, e = BusState.reset.detectEdges 0x80 7 0 := ⟨_, rfl⟩

theorem witness_EventsComeOnEdges : ∃ t e, exec (.sample 0x01 0 1) State.reset = .next t ∧
    e = State.reset.bus.detectEdges 0x01 0 1 := ⟨_, _, rfl, rfl⟩

/-- V34 and V35: selects 7 and 3 with and without noise; and a RESET edge with other inputs. -/
theorem witness_OnlyTheSelectedLevels : ∃ (s t : State) (ps qs : List Pins),
    List.Forall₂ (fun p q => p.rst = q.rst ∧ (p.rst = false → p.sampleValid = q.sampleValid ∧
      (p.sampleValid = true →
        p.levels.getLsbD p.sclSel.toNat = q.levels.getLsbD q.sclSel.toNat ∧
        p.levels.getLsbD p.sdaSel.toNat = q.levels.getLsbD q.sdaSel.toNat))) ps qs ∧ ps ≠ qs ∧
    Host.Core.run Sys2Proof.core 2 ({ s with inputs := ps } : Sys2Proof.Machine.State) = .next t :=
  ⟨State.reset, _, [⟨true, true, 0x01, 0, 1⟩, Pins.ofSample 0x80 7 3],
    [⟨true, false, 0xFF, 2, 2⟩, Pins.ofSample 0xB5 7 3],
    .cons (by decide) (.cons (by decide) .nil), by decide, rfl⟩

/-- Section 3.2, the first two samples. -/
theorem witness_EqualSelects : ∃ s t u : State, s.bus.lastClk = s.bus.lastSda ∧
    Runs (fun p _ => p.rst = false ∧ p.sclSel = p.sdaSel) s t ∧ step t = .next u ∧
    t.fetch.rst = false ∧ t.fetch.sclSel = t.fetch.sdaSel :=
  ⟨{ State.reset with inputs := [Pins.ofSample 0x04 2 2, Pins.ofSample 0x00 2 2] }, _, _, rfl,
    .tail (.refl _) rfl ⟨rfl, rfl⟩, rfl, rfl, rfl⟩

/-! ## Witnesses: consequences over several edges -/

/-- Every clause on the first sample is met by some sample. -/
theorem witness_FirstSample :
    ((0x03 : Levels).getLsbD (0 : Sel).toNat = true ∧ (0x03 : Levels).getLsbD (1 : Sel).toNat = true) ∧
    ((0x01 : Levels).getLsbD (0 : Sel).toNat = true ∧ (0x01 : Levels).getLsbD (1 : Sel).toNat = false) ∧
    (0x02 : Levels).getLsbD (0 : Sel).toNat = false := ⟨⟨rfl, rfl⟩, ⟨rfl, rfl⟩, rfl⟩

/-- P3: SCL falls with SDA low, then rises (n = 0 and 1). With SDA high the NACK clause. -/
theorem witness_FirstRise : ∀ l ∈ [(0x00 : Levels), 0x02], ∃ (ins : List Pins) (s : State) (l' : Levels),
    Runs (fun p u => p.rst = false ∧
      (u.out.read = .ok none ∨ u.out.read = .ok (some .none) ∨ u.out.read = .ok (some .stop)))
      { State.reset with inputs := ins } s ∧
    s.bus.lastClk = false ∧ l'.getLsbD (0 : Sel).toNat = true ∧ l'.getLsbD (1 : Sel).toNat = s.bus.lastSda := by
  intro l hl
  simp only [List.mem_cons, List.not_mem_nil, or_false] at hl
  rcases hl with rfl | rfl
  · exact ⟨[Pins.ofSample 0x00 0 1], _, 0x01, .tail (.refl _) rfl ⟨rfl, .inr (.inl rfl)⟩, rfl, rfl, rfl⟩
  · exact ⟨[Pins.ofSample 0x02 0 1], _, 0x03, .tail (.refl _) rfl ⟨rfl, .inr (.inl rfl)⟩, rfl, rfl, rfl⟩

theorem witness_IdleCycles : (∀ q ∈ [Pins.quiet, Pins.quiet], q.isIdle) ∧ (Pins.ofSample 0x01 0 1).isSample := by
  decide

/-- Two edges that receive one bit: a record of `None`, then the bit. -/
theorem receives_bit {s t u v : State} {bits : List Bool} (b : Bool) (h : Receives s bits t)
    (h1 : step t = .next u) (n1 : t.fetch.rst = false) (r1 : u.out.read = .ok (some .none))
    (h2 : step u = .next v) (n2 : u.fetch.rst = false) (r2 : v.out.read = .ok (some (.bit b))) :
    Receives s (bits ++ [b]) v := by
  have keep : Receives s (bits ++ []) u := h.tail h1 ⟨n1, _, r1, by simp [Event.armsByte]⟩ r1
  rw [List.append_nil] at keep
  exact keep.tail h2 ⟨n2, _, r2, by simp [Event.armsByte]⟩ r2

/-- SCL low and then high, SDA at `b` in both: the samples of one bit. -/
def bitInputs (b : Bool) : List Pins := (bitPairs b).take 2 |>.map (pairPins 0 1 0)

/-- After a START (section 1.1, n = 2 and n = 4 to 6, without the repeats): no bit yet, and one bit. -/
theorem witness_ReceivedBits : ∃ (r s t : State) (e : Event), step r = .next s ∧ s.out.read = .ok (some e) ∧
    e.armsByte = true ∧ Receives s [] s ∧ Receives s [true] t :=
  ⟨{ State.reset with inputs := Pins.ofSample 0x01 0 1 :: bitInputs true }, _, _, .start, rfl, rfl, rfl, .refl _,
    receives_bit true (.refl _) rfl rfl rfl rfl rfl rfl⟩

/-- After an ACK, at the other end of the range: the eight bits of 0xA5. -/
theorem witness_ReceivedBits_whole_byte : ∃ (r s t : State) (e : Event), step r = .next s ∧
    s.out.read = .ok (some e) ∧ e.armsByte = true ∧
    Receives s [true, false, true, false, false, true, false, true] t ∧ t.bus.value = 0xA5 :=
  ⟨{ busAt false false 0 0xA0 true with
      inputs := Pins.ofSample 0x01 0 1 ::
        [true, false, true, false, false, true, false, true].flatMap bitInputs }, _, _,
    .ack (.address 0x50 .write), rfl, rfl, rfl,
    receives_bit true (receives_bit false (receives_bit true (receives_bit false (receives_bit false
      (receives_bit true (receives_bit false (receives_bit true (.refl _)
      rfl rfl rfl rfl rfl rfl) rfl rfl rfl rfl rfl rfl) rfl rfl rfl rfl rfl rfl) rfl rfl rfl rfl rfl rfl)
      rfl rfl rfl rfl rfl rfl) rfl rfl rfl rfl rfl rfl) rfl rfl rfl rfl rfl rfl) rfl rfl rfl rfl rfl rfl, rfl⟩

/-- P2 (n = 54 to 56): a data NACK, then SCL falls; the slot is still open with SDA high or low. -/
theorem witness_NackKeepsTheSlot : ∀ sda ∈ [true, false], ∃ (r s t : State) (l' : Levels),
    step r = .next s ∧ s.out.read = .ok (some (.nack (.data 0x5A))) ∧ Runs KeepsByte s t ∧
    t.bus.lastClk = false ∧ t.bus.lastSda = sda ∧ l'.getLsbD (0 : Sel).toNat = true ∧
    l'.getLsbD (1 : Sel).toNat = t.bus.lastSda := by
  intro sda _
  cases sda
  · exact ⟨{ busAt false true 0 0x5A false with inputs := [Pins.ofSample 0x03 0 1, Pins.ofSample 0x00 0 1] }, _, _, 0x01,
      rfl, rfl, .tail (.refl _) rfl ⟨rfl, some .none, rfl, by simp [Event.armsByte]⟩, rfl, rfl, rfl, rfl⟩
  · exact ⟨{ busAt false true 0 0x5A false with inputs := [Pins.ofSample 0x03 0 1, Pins.ofSample 0x02 0 1] }, _, _, 0x03,
      rfl, rfl, .tail (.refl _) rfl ⟨rfl, some .none, rfl, by simp [Event.armsByte]⟩, rfl, rfl, rfl, rfl⟩

/-- Inside a byte (8 and 1 bits left) and at its acknowledgement slot. -/
theorem witness_RiseBeforeStopOrStart : ∀ br ∈ [(8 : BitVec 4), 1, 0], ∀ sda ∈ [true, false],
    (busAt false sda br 0 true).Steppable ∧ (busAt false sda br 0 true).bus.lastClk = false ∧
    (busAt false sda br 0 true).bus.lastSda = sda ∧
    (0x01 : Levels).getLsbD (0 : Sel).toNat = true ∧ (0x01 : Levels).getLsbD (1 : Sel).toNat = false ∧
    (0x03 : Levels).getLsbD (0 : Sel).toNat = true ∧ (0x03 : Levels).getLsbD (1 : Sel).toNat = true := by decide

theorem witness_EventRegistersDoNotInfluence : ∃ t : State, Host.Core.run Sys2Proof.core 1 State.reset = .next t :=
  ⟨_, rfl⟩

/-- A state of the invariant that is not the reset state: three bits of an address byte received. -/
theorem witness_Inv : (busAt true true 5 0xA0 true).Inv :=
  ⟨by decide, by decide, by decide⟩

/-! ## Witnesses: encoding -/

theorem witness_PlacedOperation : ∀ x ∈ [((0x1C : Nat), Instr.bit1 false), (0x02, .reset false), (0x01, .sample 0 0 0)],
    decodeTableWord 8 x.1 = some x.2 := by decide

theorem witness_WellFormed : (Instr.sample 0xFF 7 7).wellFormed = true := rfl

/-- Distinct selects with an unselected pin beside them; and equal selects. -/
theorem witness_PairSample : (7 : Sel) ≠ 3 ∧ (2 : Sel) = 2 ∧ (0 : Nat) < 8 ∧ 0 ≠ (7 : Sel).toNat ∧ 0 ≠ (3 : Sel).toNat := by decide

end Sys2Proof.Tests
end

/-! PROOFS. The statements on the state (spec/10_state.md): first what a SAMPLE and a step do, said once through
`wholeStep` and the event it answers, then the invariant, the writers and the runs. -/

namespace Sys2Proof.Machine

/-! ## What an event says was done to BusState -/

/-- BusState after a SAMPLE that answered the event, the last levels aside (R79 to R88). -/
def BusState.after (b : BusState) : Event → BusState
  | .none => b
  | .start => b.openByte true
  | .bit true => b.receiveOne
  | .bit false => b.countBit
  | .ack _ => b.openByte false
  | .nack _ => b
  | .stop => b

@[simp] theorem after_none (b : BusState) : b.after .none = b := rfl
@[simp] theorem after_start (b : BusState) : b.after .start = b.openByte true := rfl
@[simp] theorem after_bit_true (b : BusState) : b.after (.bit true) = b.receiveOne := rfl
@[simp] theorem after_bit_false (b : BusState) : b.after (.bit false) = b.countBit := rfl
@[simp] theorem after_ack (b : BusState) (p : Payload) : b.after (.ack p) = b.openByte false := rfl
@[simp] theorem after_nack (b : BusState) (p : Payload) : b.after (.nack p) = b := rfl
@[simp] theorem after_stop (b : BusState) : b.after .stop = b := rfl

theorem after_bit_bitsRemaining (b : BusState) (v : Bool) :
    (b.after (.bit v)).bitsRemaining = b.bitsRemaining - 1 := by
  cases v <;> rfl

theorem after_bit_value (b : BusState) (v : Bool) :
    (b.after (.bit v)).value
      = b.value ||| (if v = true then 1#8 <<< (b.bitsRemaining - 1).toNat else 0) := by
  cases v <;> simp

theorem after_bit_addressPhase (b : BusState) (v : Bool) :
    (b.after (.bit v)).addressPhase = b.addressPhase := by
  cases v <;> rfl

/-- START and ACK leave a byte of which nothing is received. -/
theorem after_of_armsByte {e : Event} (h : e.armsByte = true) (b : BusState) :
    (b.after e).bitsRemaining = 8 ∧ (b.after e).value = 0 := by
  cases e with
  | start => exact ⟨rfl, rfl⟩
  | ack p => exact ⟨rfl, rfl⟩
  | _ => cases h

/-! ## SAMPLE in one piece -/

/-- BusState after the whole step is what its event says, with the sample's levels as the last ones. -/
theorem wholeStep_bus (b : BusState) (cc cs : Bool) :
    (wholeStep b cc cs).1 = (b.after (wholeStep b cc cs).2).setLevels cc cs := by
  obtain ⟨lc, ls, br, v, ap⟩ := b
  -- the last and the current levels, and whether a bit is still to come, select the branch
  by_cases hb : 0 < br.toNat <;> cases lc <;> cases ls <;> cases cc <;> cases cs <;>
    simp [wholeStep, hb] <;> rfl

/-- A data bit is received only while one is still to come. -/
theorem bitsRemaining_pos_of_wholeStep_bit {b : BusState} {cc cs v : Bool}
    (h : (wholeStep b cc cs).2 = .bit v) : 0 < b.bitsRemaining.toNat := by
  by_contra hb
  revert h
  simp only [wholeStep, if_neg hb]
  split_ifs <;> simp

/-- In a state whose decode word is the row's own, only the guard can stop the row. -/
theorem performRow_decodeBits (s : State) (cc cs : Bool) (b : BusState) (e : Event) :
    s.performRow (s.bus.decodeBits cc cs) b e
      = s.guarded (.next { s with bus := b.setLevels cc cs, out := e.record }) := by
  simp [State.performRow, BusState.decodeBits]

/-- The row of the state's own decode word performs the event of the whole step. -/
theorem exec_rowOf_decodeBits (s : State) (cc cs : Bool) :
    exec (rowOf (s.bus.decodeBits cc cs)) s
      = s.performRow (s.bus.decodeBits cc cs) (s.bus.after (wholeStep s.bus cc cs).2)
          (wholeStep s.bus cc cs).2 := by
  obtain ⟨⟨lc, ls, br, v, ap⟩, out, seen, inputs⟩ := s
  by_cases hb : br = 0#4
  · subst hb
    cases lc <;> cases cc <;> cases ls <;> cases cs <;> cases ap <;> rfl
  · have hpos : 0 < br.toNat := by bv_omega
    cases lc <;> cases cc <;> cases ls <;> cases cs <;>
      simp [wholeStep, BusState.decodeBits, rowOf, exec, hb, hpos] <;> rfl

/-- SAMPLE is the whole step of R95, behind the guard. -/
theorem execSample_eq_wholeStep (l : Levels) (c d : Sel) (s : State) :
    execSample l c d s = s.guarded (.next { s with
      bus := (wholeStep s.bus (l.getLsbD c.toNat) (l.getLsbD d.toNat)).1
      out := (wholeStep s.bus (l.getLsbD c.toNat) (l.getLsbD d.toNat)).2.record }) := by
  rw [execSample_eq_row, exec_rowOf_decodeBits, performRow_decodeBits, wholeStep_bus]

/-! ## The two levels that an edge presents -/

/-- The level of SCL at an edge (R69). -/
abbrev Pins.clk (p : Pins) : Bool := p.levels.getLsbD p.sclSel.toNat

/-- The level of SDA at an edge (R70). -/
abbrev Pins.sda (p : Pins) : Bool := p.levels.getLsbD p.sdaSel.toNat

/-- The event of a SAMPLE edge, by the state before it. -/
abbrev State.sampledEvent (s : State) : Event := (wholeStep s.bus s.fetch.clk s.fetch.sda).2

/-! ## A step: one equation for each kind of edge -/

theorem step_of_rst {s : State} (h : s.fetch.rst = true) :
    step s = .next { bus := BusState.reset, out := EventRegs.reset, resetSeen := true,
                     inputs := s.inputs.tail } := by
  simp [step, decode_code, h, exec, execReset]

theorem step_of_isSample {s : State} (h : s.fetch.isSample) :
    step s = s.guarded (.next {
      bus := (s.bus.after s.sampledEvent).setLevels s.fetch.clk s.fetch.sda
      out := s.sampledEvent.record, resetSeen := s.resetSeen, inputs := s.inputs.tail }) := by
  simp only [step, decode_code, h.1, h.2, exec, execSample_eq_wholeStep, wholeStep_bus]
  rfl

theorem step_of_isIdle {s : State} (h : s.fetch.isIdle) :
    step s = s.guarded (.next { s with out := s.out.expire, inputs := s.inputs.tail }) := by
  simp only [step, decode_code, h.1, h.2]
  rfl

theorem edge_cases (p : Pins) : p.rst = true ∨ p.isSample ∨ p.isIdle := by
  unfold Pins.isSample Pins.isIdle
  cases p.rst <;> cases p.sampleValid <;> simp

/-- All that a step can do when it answers a next state. -/
theorem step_next {s t : State} (h : step s = .next t) :
    (s.fetch.rst = true ∧
      t = { bus := BusState.reset, out := EventRegs.reset, resetSeen := true, inputs := s.inputs.tail }) ∨
    (s.fetch.isSample ∧ s.Steppable ∧
      t = { bus := (s.bus.after s.sampledEvent).setLevels s.fetch.clk s.fetch.sda
            out := s.sampledEvent.record, resetSeen := s.resetSeen, inputs := s.inputs.tail }) ∨
    (s.fetch.isIdle ∧ s.Steppable ∧ t = { s with out := s.out.expire, inputs := s.inputs.tail }) := by
  obtain hr | hs | hi := edge_cases s.fetch
  · rw [step_of_rst hr] at h
    exact .inl ⟨hr, (Host.Outcome.next.inj h).symm⟩
  · rw [step_of_isSample hs] at h
    obtain ⟨hst, ht⟩ := guarded_next h
    exact .inr (.inl ⟨hs, hst, (Host.Outcome.next.inj ht).symm⟩)
  · rw [step_of_isIdle hi] at h
    obtain ⟨hst, ht⟩ := guarded_next h
    exact .inr (.inr ⟨hi, hst, (Host.Outcome.next.inj ht).symm⟩)

/-! ## What a reader of the event registers learns of an edge -/

@[simp] theorem read_reset : EventRegs.reset.read = .ok none := rfl

@[simp] theorem read_expire (r : EventRegs) : r.expire.read = .ok none := rfl

/-- An address byte taken apart and put together again (R93). -/
theorem address_of_byte (a : BitVec 7) (d : Direction) :
    Payload.address ((a ++ BitVec.ofBool d.toBool).extractLsb' 1 7)
      (directionOf ((a ++ BitVec.ofBool d.toBool).getLsbD 0)) = .address a d := by
  cases d <;> revert a <;> decide

/-- The registers' payload is the one of the event that they record. -/
theorem payload_of_byte (p : Payload) (valid : Bool) (code : BitVec 3) :
    EventRegs.payload ⟨valid, code, p.kind, p.byte⟩ = p := by
  cases p with
  | address a d => exact address_of_byte a d
  | data v => rfl

/-- The event of a record is read back from it. -/
@[simp] theorem read_record (e : Event) : e.record.read = .ok (some e) := by
  cases e with
  | bit b => cases b <;> rfl
  | ack p => exact congrArg (fun q => Except.ok (some (Event.ack q))) (payload_of_byte p true 4)
  | nack p => exact congrArg (fun q => Except.ok (some (Event.nack q))) (payload_of_byte p true 5)
  | none => rfl
  | start => rfl
  | stop => rfl

/-- The event read after an edge says all that the edge did to BusState. -/
theorem step_bus_of_read_some {s t : State} {e : Event} (h : step s = .next t)
    (ho : t.out.read = .ok (some e)) :
    t.bus = (s.bus.after e).setLevels s.fetch.clk s.fetch.sda ∧
      ∀ b, e = .bit b → 0 < s.bus.bitsRemaining.toNat := by
  obtain ⟨-, rfl⟩ | ⟨-, -, rfl⟩ | ⟨-, -, rfl⟩ := step_next h
  · simp at ho
  · obtain rfl : s.sampledEvent = e := by simpa using ho
    exact ⟨rfl, fun b hb => bitsRemaining_pos_of_wholeStep_bit hb⟩
  · simp at ho

/-- An edge that is no RESET and leaves no record leaves BusState. -/
theorem step_bus_of_read_none {s t : State} (h : step s = .next t) (hr : s.fetch.rst = false)
    (ho : t.out.read = .ok none) : t.bus = s.bus := by
  obtain ⟨hrst, -⟩ | ⟨-, -, rfl⟩ | ⟨-, -, rfl⟩ := step_next h
  · simp [hr] at hrst
  · simp at ho
  · rfl

/-- A RESET edge leaves the reset values in BusState. -/
theorem step_bus_of_rst {s t : State} (h : step s = .next t) (hr : s.fetch.rst = true) :
    t.bus = BusState.reset := by
  rw [step_of_rst hr] at h
  rw [← Host.Outcome.next.inj h]

/-! ## The invariant -/

theorem toNat_sub_one {n : BitVec 4} (h : 0 < n.toNat) : (n - 1).toNat = n.toNat - 1 := by
  bv_omega

/-- The bit set by `1 << n` in a byte. -/
theorem getLsbD_one_shiftLeft {n i : Nat} (hi : i < 8) : (1#8 <<< n).getLsbD i = decide (i = n) := by
  refine (BitVec.getLsbD_twoPow n i).trans ?_
  by_cases h : i = n
  · simp [← h, hi]
  · simp [h, Ne.symm h]

/-- A received bit, at its place in a byte. -/
theorem getLsbD_bitAt {n i : Nat} (hi : i < 8) (v : Bool) :
    (if v = true then 1#8 <<< n else 0).getLsbD i = (v && decide (i = n)) := by
  cases v
  · simp
  · simpa using getLsbD_one_shiftLeft hi

theorem after_bitsRemaining_le {b : BusState} {e : Event} (hb : b.bitsRemaining.toNat ≤ 8)
    (he : ∀ v, e = .bit v → 0 < b.bitsRemaining.toNat) : (b.after e).bitsRemaining.toNat ≤ 8 := by
  cases e with
  | bit v =>
    rw [after_bit_bitsRemaining, toNat_sub_one (he v rfl)]
    omega
  | start => simp
  | ack p => simp
  | _ => exact hb

/-- A received bit is written at the position counted down to, so the positions below it keep their 0 (R22). -/
theorem after_clear {b : BusState} {e : Event} (hb : b.bitsRemaining.toNat ≤ 8) (hc : b.Clear)
    (he : ∀ v, e = .bit v → 0 < b.bitsRemaining.toNat) : (b.after e).Clear := by
  cases e with
  | bit v =>
    intro i hi
    rw [after_bit_bitsRemaining, toNat_sub_one (he v rfl)] at hi
    have hbelow : i ≠ b.bitsRemaining.toNat - 1 := by omega
    rw [after_bit_value, BitVec.getLsbD_or, hc i (by omega), getLsbD_bitAt (by omega),
      toNat_sub_one (he v rfl)]
    simp [hbelow]
  | start => exact openByte_clear b true
  | ack p => exact openByte_clear b false
  | _ => exact hc

/-- Settles O48: no bit is still to be received, and the record is that of `None` without `ev_valid`. -/
theorem resetStateMeetsTheInvariant : Obligations.ResetStateMeetsTheInvariant where
  steppable := by decide
  clear := by decide
  encoded := by decide

/-- The invariant speaks of the registers alone, so the reset values meet it whatever inputs are to come. -/
theorem inv_of_reset_registers (inputs : List Pins) : ({ State.reset with inputs := inputs } : State).Inv :=
  ⟨resetStateMeetsTheInvariant.steppable, resetStateMeetsTheInvariant.clear,
    resetStateMeetsTheInvariant.encoded⟩

/-- Settles O49: RESET gives the reset registers, a SAMPLE does what its event says, an IDLE only lets the
record expire; the guard stops none of them in a state of the invariant. -/
theorem everyStepGoesOnAndKeepsTheInvariant : Obligations.EveryStepGoesOnAndKeepsTheInvariant := by
  intro s hinv
  obtain ⟨hst, hclear, henc⟩ := hinv
  obtain hr | hs | hi := edge_cases s.fetch
  · exact ⟨_, step_of_rst hr, inv_of_reset_registers s.inputs.tail⟩
  · have hbit : ∀ v, s.sampledEvent = .bit v → 0 < s.bus.bitsRemaining.toNat :=
      fun v hv => bitsRemaining_pos_of_wholeStep_bit hv
    exact ⟨_, (step_of_isSample hs).trans (guarded_of_steppable hst _),
      ⟨hst.1, after_bitsRemaining_le hst.2 hbit⟩, after_clear hst.2 hclear hbit, record_encoded _⟩
  · exact ⟨_, (step_of_isIdle hi).trans (guarded_of_steppable hst _), hst, hclear, expire_encoded henc⟩

/-! ## Writers of the state -/

/-- Settles O23: each kind of edge writes the last levels as `step_next` says. -/
theorem lastLevelsFollowEverySample : Obligations.LastLevelsFollowEverySample := by
  refine ⟨rfl, rfl, fun s t h => ?_⟩
  obtain ⟨hr, rfl⟩ | ⟨hs, -, rfl⟩ | ⟨hi, -, rfl⟩ := step_next h
  · simp [Pins.isSample, Pins.isIdle, hr, BusState.reset]
  · simp [Pins.isIdle, hs.1, hs.2]
  · simp [Pins.isSample, hi.1, hi.2]

/-- Settles O24: the event that is read afterwards says what was done to the byte and its counter. -/
theorem counterAndByteChangeOnlyWithTheirEvents : Obligations.CounterAndByteChangeOnlyWithTheirEvents := by
  refine ⟨rfl, rfl, fun s t h => ⟨fun hr => ?_, fun hr o ho => ?_⟩⟩
  · rw [step_bus_of_rst h hr]
    exact ⟨rfl, rfl⟩
  cases o with
  | none => simp [step_bus_of_read_none h hr ho]
  | some e =>
    obtain ⟨hbus, hbit⟩ := step_bus_of_read_some h ho
    simp only [hbus, setLevels_bitsRemaining, setLevels_value]
    refine ⟨fun e' he harms => ?_, fun b he => ?_, fun hkeep => ?_⟩
    · obtain rfl := Option.some.inj he
      exact after_of_armsByte harms s.bus
    · obtain rfl := Option.some.inj he
      have hpos : 0 < s.bus.bitsRemaining.toNat := hbit b rfl
      rw [after_bit_bitsRemaining, after_bit_value, toNat_sub_one hpos]
      exact ⟨by omega, rfl⟩
    · obtain he | he | he | ⟨p, he⟩ := hkeep <;> cases he <;> exact ⟨rfl, rfl⟩

/-- Settles O25: the event that is read afterwards says what was done to the address phase. -/
theorem addressPhaseIsSetByStartAndClearedByAck : Obligations.AddressPhaseIsSetByStartAndClearedByAck := by
  refine ⟨rfl, fun s t h => ⟨fun hr => ?_, fun hr o ho => ?_⟩⟩
  · rw [step_bus_of_rst h hr]
    rfl
  cases o with
  | none => simp [step_bus_of_read_none h hr ho]
  | some e =>
    rw [(step_bus_of_read_some h ho).1, setLevels_addressPhase]
    cases e with
    | bit b => simp [after_bit_addressPhase]
    | _ => simp

/-- Settles O26: an edge that is neither is an IDLE, which writes only `ev_valid`. -/
theorem onlySampleAndResetWriteBusState : Obligations.OnlySampleAndResetWriteBusState := by
  intro s t h hne
  obtain ⟨hr, -⟩ | ⟨hs, -⟩ | ⟨-, -, rfl⟩ := step_next h
  · exact .inr hr
  · exact .inl hs
  · exact absurd rfl hne

/-! ## Where a model refuses to step -/

/-- Every operation but RESET stands behind the guard. -/
theorem exec_eq_guarded {i : Instr} (hi : ∀ sv, i ≠ .reset sv) (s : State) :
    ∃ r, exec i s = s.guarded r := by
  cases i with
  | reset sv => exact absurd rfl (hi sv)
  | sample l c d => exact ⟨_, execSample_eq_wholeStep l c d s⟩
  | _ => exact ⟨_, rfl⟩

theorem guarded_of_refusal {s : State} {why : Refusal} (h : s.refusal = some why) (r : Result) :
    s.guarded r = .refused why := by
  simp [State.guarded, h]

/-- Settles O29: every operation but RESET meets the guard, whose reason this is. -/
theorem counterAboveEightIsRefused : Obligations.CounterAboveEightIsRefused := by
  intro s hseen hnine i hi
  have hwhy : s.refusal = some .bitsRemainingOutOfRange := by
    have hout : 8 < s.bus.bitsRemaining.toNat := hnine
    simp [State.refusal, hseen, hout]
  obtain ⟨r, hr⟩ := exec_eq_guarded hi s
  rw [hr, guarded_of_refusal hwhy]

/-! ## The bits received since a START or an ACK -/

/-- The bits stand in the byte from bit 7 down, every other bit of it is 0, and the counter is 8 less their
number (R22, R43). -/
structure BusState.HoldsBits (b : BusState) (bits : List Bool) : Prop where
  length_le : bits.length ≤ 8
  counter : b.bitsRemaining.toNat = 8 - bits.length
  place : ∀ k, k < 8 → b.value.getLsbD (7 - k) = bits.getD k false

theorem holdsBits_setLevels {b : BusState} {bits : List Bool} (h : b.HoldsBits bits) (c d : Bool) :
    (b.setLevels c d).HoldsBits bits :=
  ⟨h.length_le, h.counter, h.place⟩

/-- A newly armed byte holds no bit yet. -/
theorem holdsBits_nil_of_armsByte {e : Event} (h : e.armsByte = true) (b : BusState) :
    (b.after e).HoldsBits [] := by
  obtain ⟨hleft, hvalue⟩ := after_of_armsByte h b
  exact ⟨by simp, by simp [hleft], by simp [hvalue]⟩

/-- The bits in order of arrival, with one more behind them. -/
theorem getD_concat (bits : List Bool) (v : Bool) (k : Nat) :
    (bits ++ [v]).getD k false = (bits.getD k false || (v && decide (k = bits.length))) := by
  obtain hlt | rfl | hgt := lt_trichotomy k bits.length
  · rw [List.getD_append _ _ _ _ hlt]
    simp [hlt.ne]
  · simp
  · rw [List.getD_eq_default _ _ (by simp; omega), List.getD_eq_default _ _ hgt.le]
    simp [hgt.ne']

/-- A received bit stands below the ones before it. -/
theorem holdsBits_after_bit {b : BusState} {bits : List Bool} (h : b.HoldsBits bits)
    (hpos : 0 < b.bitsRemaining.toNat) (v : Bool) : (b.after (.bit v)).HoldsBits (bits ++ [v]) := by
  obtain ⟨hlen, hcount, hplace⟩ := h
  have hleft : (b.bitsRemaining - 1).toNat = 7 - bits.length := by
    rw [toNat_sub_one hpos]; omega
  refine ⟨?_, ?_, fun k hk => ?_⟩
  · rw [List.length_append, List.length_singleton]; omega
  · rw [after_bit_bitsRemaining, hleft, List.length_append, List.length_singleton]; omega
  · have hpos' : (7 - k = 7 - bits.length) ↔ k = bits.length := by omega
    rw [after_bit_value, BitVec.getLsbD_or, hplace k hk, hleft, getLsbD_bitAt (by omega), getD_concat]
    simp only [hpos']

/-- An edge that arms no byte adds the bit that it received, if it received one. -/
theorem holdsBits_step {s t : State} {bits : List Bool} {o : Option Event} (h : s.bus.HoldsBits bits)
    (hstep : step s = .next t) (hkeep : KeepsByte s.fetch t) (ho : t.out.read = .ok o) :
    t.bus.HoldsBits (bits ++ (o.map Event.bits).getD []) := by
  obtain ⟨hr, o', ho', hnone⟩ := hkeep
  obtain rfl : o' = o := Except.ok.inj (ho'.symm.trans ho)
  cases o' with
  | none => simpa [step_bus_of_read_none hstep hr ho] using h
  | some e =>
    obtain ⟨hbus, hbit⟩ := step_bus_of_read_some hstep ho
    rw [hbus]
    refine holdsBits_setLevels ?_ _ _
    have harms := hnone e rfl
    cases e with
    | bit v => exact holdsBits_after_bit h (hbit v rfl) v
    | start => cases harms
    | ack p => cases harms
    | _ => simpa [Event.bits] using h

/-- Settles O43, by induction on the edges since the START or the ACK. -/
theorem receivedBitsStandInOrderFromTheTop : Obligations.ReceivedBitsStandInOrderFromTheTop := by
  intro r s t e bits hstep hread harms hrec
  have hholds : t.bus.HoldsBits bits := by
    induction hrec with
    | refl =>
      rw [(step_bus_of_read_some hstep hread).1]
      exact holdsBits_setLevels (holdsBits_nil_of_armsByte harms r.bus) _ _
    | tail _ hnext hkeep ho ih => exact holdsBits_step ih hnext hkeep ho
  exact ⟨hholds.length_le, hholds.counter, hholds.place⟩

/-! ## The event registers and the ports -/

theorem run_of_fault {s : State} {f : Fault} (h : step s = .fault f) (n : Nat) :
    Host.Core.run Sys2Proof.core (n + 1) s = .fault f := by
  simp only [Host.Core.run]
  rw [show Sys2Proof.core.step s = .fault f from h]

theorem run_succ_next {n : Nat} {s t : State} (h : Host.Core.run Sys2Proof.core (n + 1) s = .next t) :
    ∃ u : State, step s = .next u ∧ Host.Core.run Sys2Proof.core n u = .next t := by
  cases hs : step s with
  | next u => exact ⟨u, rfl, (run_of_next hs n).symm.trans h⟩
  | refused r => simp [run_of_refused hs n] at h
  | fault f => simp [run_of_fault hs n] at h

/-- The event registers choose neither the operation of an edge nor what it does to the other state. -/
theorem step_of_other_out {s t : State} (h : step s = .next t) (out : EventRegs) :
    ∃ out', step { s with out := out } = .next { t with out := out' } := by
  obtain ⟨hr, rfl⟩ | ⟨hs, hst, rfl⟩ | ⟨hi, hst, rfl⟩ := step_next h
  · exact ⟨_, step_of_rst hr⟩
  · exact ⟨_, (step_of_isSample (s := { s with out := out }) hs).trans (guarded_of_steppable hst _)⟩
  · exact ⟨_, (step_of_isIdle (s := { s with out := out }) hi).trans (guarded_of_steppable hst _)⟩

/-- Settles O47, by induction on the number of edges. -/
theorem eventRegistersDoNotInfluenceTheDecoding : Obligations.EventRegistersDoNotInfluenceTheDecoding := by
  intro n
  induction n with
  | zero =>
    intro s t out h
    obtain rfl := Host.Outcome.next.inj h
    exact ⟨out, rfl⟩
  | succ n ih =>
    intro s t out h
    obtain ⟨u, hstep, hrun⟩ := run_succ_next h
    obtain ⟨out₁, hstep₁⟩ := step_of_other_out hstep out
    obtain ⟨out', hrun'⟩ := ih u t out₁ hrun
    exact ⟨out', (run_of_next hstep₁ n).trans hrun'⟩

/-- Settles O3: the other ports of the edge do not stand in `step_of_rst`. -/
theorem resetWinsOverEveryOtherInput : Obligations.ResetWinsOverEveryOtherInput := by
  intro s p rest hin hrst
  rw [step_of_rst (by rw [fetch_of_cons hin, hrst]), hin]
  rfl

/-- The seven address bits of a byte, as a slice and as a shift (R35). -/
theorem extractLsb'_address (v : BitVec 8) : v.extractLsb' 1 7 = (v >>> 1).setWidth 7 := by
  ext i hi
  simp [BitVec.getElem_extractLsb', Nat.add_comm]

/-- Settles O34: each port is a register, the address port the slice of one. -/
theorem outputPortsShowTheRegisters : Obligations.OutputPortsShowTheRegisters := fun s =>
  ⟨extractLsb'_address s.out.byte, rfl, rfl, rfl, rfl, rfl, rfl, rfl, rfl, rfl, rfl⟩

/-- The kind, address and direction ports after the record of an event (R35). -/
theorem outputs_of_record {s : State} {e : Event} (h : s.out = e.record) :
    s.outputs.evKind = e.kind ∧ s.outputs.evAddr = (e.byte >>> 1).setWidth 7 ∧
      s.outputs.evDir = e.byte.getLsbD 0 := by
  simp [State.outputs, h, extractLsb'_address]

/-- Settles O35: both rows record an address payload, whose byte is the one before the step. -/
theorem addressPortsShowTheAcknowledgedByte : Obligations.AddressPortsShowTheAcknowledgedByte := by
  rintro i s t (rfl | rfl) h <;> obtain ⟨-, -, rfl⟩ := performRow_next h
  · simpa [Event.kind, Event.byte] using outputs_of_record (e := .ack s.bus.addressPayload) rfl
  · simpa [Event.kind, Event.byte] using outputs_of_record (e := .nack s.bus.addressPayload) rfl

end Sys2Proof.Machine

/-! PROOFS. The statements on the encoding (spec/30_encoding.md): first that rows and decode words determine each
other and what the row of a decode word does, then the statements on words, rows, records, runs and pairs. -/

namespace Sys2Proof

/-! ## Rows and decode words determine each other -/

@[simp] theorem decode_word (b : DwBits) : decode (.dw b.word) = rowOf b := by
  rw [decode, dwBits_word]

/-- The six bits of a decode word are all of it. -/
@[simp] theorem word_dwBits (w : Dw) : (dwBits w).word = w := by
  revert w; decide

/-- The row that six bits select is encoded by those bits. -/
theorem encode_rowOf (b : DwBits) : encode (rowOf b) = .dw b.word := by
  fun_cases rowOf b <;> rfl

/-! ## The input words of a SAMPLE -/

/-- CFG is made of its two selects (R54). -/
theorem cfgWord_selects (cfg : Cfg) : cfgWord (cfg.extractLsb' 3 3) (cfg.extractLsb' 0 3) = cfg := by
  revert cfg; decide

/-- Settles O51: the decode word of a row keeps the row's six bits, and the ports keep the operands of a cycle
operation. -/
theorem decodeOfEncodeIsTheOperation : Obligations.DecodeOfEncodeIsTheOperation := by
  intro i _
  cases i with
  | reset sv => exact decodePins_words true sv 0 0 0
  | idle => exact decodePins_words false false 0 0 0
  | sample l c d => exact decodePins_words false true l c d
  | _ => exact decode_word _

/-- Settles O52: a decode word is encoded from its bits, and a SAMPLE from the fields of its words. -/
theorem encodeOfDecodeIsTheWord : Obligations.EncodeOfDecodeIsTheWord := by
  refine ⟨fun w => ?_, fun sw cfg => ?_⟩
  · rw [decode, encode_rowOf, word_dwBits]
  · have hsample : decode (.pins 0b01 sw cfg) = .sample sw (cfg.extractLsb' 3 3) (cfg.extractLsb' 0 3) := rfl
    rw [hsample, encode, cfgWord_selects]
    rfl

/-- Settles O53: the masks and values of the table are finite data, checked against each of the 64 decode words. -/
theorem rowsPartitionTheDecodeWords : Obligations.RowsPartitionTheDecodeWords :=
  ⟨by decide, by decide⟩

/-- Settles O54: the decoder is run on each of the eight words. -/
theorem wordsOfTheEncodingTableDecodeToTheirRows : Obligations.WordsOfTheEncodingTableDecodeToTheirRows :=
  ⟨rfl, rfl, rfl, rfl, rfl, rfl, rfl, rfl⟩

end Sys2Proof

namespace Sys2Proof.Machine

/-! ## The row of a decode word -/

/-- Settles O7: the word with these bits is the one that SAMPLE builds. -/
theorem samplePerformsTheRowItsDecodeWordSelects : Obligations.SamplePerformsTheRowItsDecodeWordSelects := by
  intro l c d s w h5 h4 h3 h2 h1 h0
  have hbits : dwBits w = s.bus.decodeBits (l.getLsbD c.toNat) (l.getLsbD d.toNat) :=
    dwBits_eq h5 h4 h3 h2 h1 h0
  rw [decode, hbits]
  exact execSample_eq_row l c d s

/-- The row that six bits select is performed under those bits. -/
theorem exec_rowOf_eq_performRow (d : DwBits) (s : State) :
    ∃ b e, exec (rowOf d) s = s.performRow d b e := by
  fun_cases rowOf d <;> exact ⟨_, _, rfl⟩

/-- Where a step is allowed, only another decode word stops a row. -/
theorem performRow_eq_rowNotSelected {s : State} (hs : s.Steppable) (d : DwBits) (b : BusState) (e : Event) :
    s.performRow d b e = .refused .rowNotSelected ↔ s.bus.decodeBits d.currentClk d.currentSda ≠ d := by
  by_cases hd : s.bus.decodeBits d.currentClk d.currentSda = d
  · simp [performRow_of_selected hs hd, hd]
  · simp [State.performRow, guarded_of_steppable hs, hd]

/-- The four bits of a decode word that come from the state (R55). -/
theorem decodeBits_eq_iff (b : BusState) (d : DwBits) :
    b.decodeBits d.currentClk d.currentSda = d ↔
      d.lastClk = b.lastClk ∧ d.lastSda = b.lastSda ∧ d.bz = decide (b.bitsRemaining = 0) ∧
        d.addressPhase = b.addressPhase := by
  obtain ⟨lc, cc, ls, cs, bz, ap⟩ := d
  simp only [BusState.decodeBits, DwBits.mk.injEq, true_and, eq_comm]

/-- Settles O30: the row is performed under the bits of the word, of which four are compared with the state. -/
theorem rowOfAnotherDecodeWordIsRefused : Obligations.RowOfAnotherDecodeWordIsRefused := by
  intro s w hs
  obtain ⟨b, e, hrow⟩ := exec_rowOf_eq_performRow (dwBits w) s
  rw [decode, hrow, performRow_eq_rowNotSelected hs]
  exact not_congr (decodeBits_eq_iff s.bus (dwBits w))

/-! ## The records that a reader does not accept -/

/-- A valid record is read unless its code is the reserved one. -/
theorem read_eq_error_iff (r : EventRegs) :
    r.read = .error .reservedEventCode ↔ r.valid = true ∧ r.code = 7 := by
  obtain ⟨valid, code, kind, byte⟩ := r
  cases valid with
  | false => simp [EventRegs.read]
  | true =>
    have hcode : code = 0 ∨ code = 1 ∨ code = 2 ∨ code = 3 ∨ code = 4 ∨ code = 5 ∨ code = 6 ∨ code = 7 := by
      revert code; decide
    obtain rfl | rfl | rfl | rfl | rfl | rfl | rfl | rfl := hcode <;> simp [EventRegs.read]

/-- Settles O33: an event is read back from its record, and code 7 alone is no event's. -/
theorem eventIsReadBackFromItsRecord : Obligations.EventIsReadBackFromItsRecord :=
  ⟨read_record, read_eq_error_iff⟩

/-! ## Runs and steps -/

/-- What every step keeps, every run keeps. -/
theorem run_keeps_inv (n : Nat) {s : State} (h : s.Inv) :
    ∃ t : State, Host.Core.run Sys2Proof.core n s = .next t ∧ t.Inv := by
  induction n generalizing s with
  | zero => exact ⟨s, run_zero s, h⟩
  | succ n ih =>
    obtain ⟨u, hstep, hu⟩ := everyStepGoesOnAndKeepsTheInvariant s h
    obtain ⟨t, hrun, ht⟩ := ih hu
    exact ⟨t, (run_of_next hstep n).trans hrun, ht⟩

/-- Settles O50: the reset registers meet the invariant whatever inputs are to come, and every run keeps it. -/
theorem noStreamOfInputsStopsTheBlock : Obligations.NoStreamOfInputsStopsTheBlock :=
  fun n inputs => run_keeps_inv n (inv_of_reset_registers inputs)

/-- Settles O5: the edge's values are the head of the inputs, and its ports select the operation. -/
theorem stepRunsTheOperationTheControlWordSelects : Obligations.StepRunsTheOperationTheControlWordSelects := by
  intro s p rest hin
  refine ⟨?_, decode_code p⟩
  rw [step, fetch_of_cons hin, State.advance, hin, List.tail_cons]

/-! ## The sample of a pair -/

/-- A level moved to its pin. -/
theorem ofBool_shiftLeft (v : Bool) (n : Nat) :
    ((0#7 ++ BitVec.ofBool v) <<< n : Levels) = if v = true then 1#8 <<< n else 0 := by
  cases v
  · exact BitVec.zero_shiftLeft n
  · rfl

/-- One pin of a pair's sample: the levels at their pins, and what the program says of every other (R65). -/
theorem pairPins_getLsbD {k : Nat} (hk : k < 8) (sclSel sdaSel : Sel) (other : Levels) (c d : Bool) :
    (pairPins sclSel sdaSel other (c, d)).levels.getLsbD k
      = (c && decide (k = sclSel.toNat) || d && decide (k = sdaSel.toNat)
        || other.getLsbD k && !(decide (k = sclSel.toNat) || decide (k = sdaSel.toNat))) := by
  simp only [pairPins, Pins.ofSample, ofBool_shiftLeft, BitVec.getLsbD_or, BitVec.getLsbD_and,
    BitVec.getLsbD_not, getLsbD_bitAt hk, getLsbD_one_shiftLeft hk, hk, decide_true, Bool.true_and]

/-- Settles O56: each clause reads one pin of the sample, whose number is or is not a select. -/
theorem pairSampleShowsItsTwoLevels : Obligations.PairSampleShowsItsTwoLevels := by
  intro sclSel sdaSel other c d
  refine ⟨⟨rfl, rfl⟩, fun hne => ⟨?_, ?_⟩, ?_, fun k hk hscl hsda => ?_⟩
  · have hpins : sclSel.toNat ≠ sdaSel.toNat := mt BitVec.eq_of_toNat_eq hne
    simp [pairPins_getLsbD sclSel.isLt, hpins]
  · have hpins : sdaSel.toNat ≠ sclSel.toNat := mt BitVec.eq_of_toNat_eq hne.symm
    simp [pairPins_getLsbD sdaSel.isLt, hpins]
  · rintro rfl
    simp [pairPins_getLsbD sclSel.isLt]
  · simp [pairPins_getLsbD hk, hscl, hsda]

end Sys2Proof.Machine

/-! PROOFS. The statements on the edge detector (spec/40_edge_detector.md): first its six results, then that only the
two selected levels of a sample reach the state, and what is left of a sample under equal selects. -/

namespace Sys2Proof.Machine

/-! ## The six results -/

/-- The level of a pin, as R69 and R70 mask it out of the level word. -/
theorem and_one_shiftLeft_ne_zero_iff (l : Levels) (sel : Sel) :
    l &&& (1#8 <<< sel.toNat) ≠ 0 ↔ l.getLsbD sel.toNat = true := by
  have hpin : BitVec.twoPow 8 sel.toNat ≠ 0#8 := by
    revert sel; decide
  rw [← BitVec.twoPow_eq, BitVec.and_twoPow]
  cases l.getLsbD sel.toNat <;> simp [hpin]

theorem rising_iff (last current : Bool) : rising last current = true ↔ last = false ∧ current = true := by
  simp [rising]

theorem falling_iff (last current : Bool) : falling last current = true ↔ last = true ∧ current = false := by
  simp [falling]

/-- Settles O36: each level is a masked pin, each flag compares a line's last and current level. -/
theorem edgeDetectorComputesLevelsAndEdges : Obligations.EdgeDetectorComputesLevelsAndEdges := by
  rintro b l c d e rfl
  exact ⟨(and_one_shiftLeft_ne_zero_iff l c).symm, (and_one_shiftLeft_ne_zero_iff l d).symm,
    rising_iff _ _, falling_iff _ _, rising_iff _ _, falling_iff _ _⟩

/-! ## Only the two selected levels matter -/

/-- Two edges of the same kind that, if they are SAMPLEs, present the same two levels (R75 item 2). -/
abbrev Pins.Agrees (p q : Pins) : Prop :=
  p.rst = q.rst ∧ (p.rst = false → p.sampleValid = q.sampleValid ∧
    (p.sampleValid = true → p.clk = q.clk ∧ p.sda = q.sda))

/-- A step that goes on takes one edge off the inputs. -/
theorem step_inputs {s t : State} (h : step s = .next t) : t.inputs = s.inputs.tail := by
  obtain ⟨-, rfl⟩ | ⟨-, -, rfl⟩ | ⟨-, -, rfl⟩ := step_next h <;> rfl

/-- An edge that agrees with the one presented does the same to all the state but the inputs. -/
theorem step_of_agrees {s t : State} {q : Pins} (h : step s = .next t) (hq : s.fetch.Agrees q)
    (qs : List Pins) : step { s with inputs := q :: qs } = .next { t with inputs := qs } := by
  obtain ⟨hrst, hkind⟩ := hq
  obtain ⟨hr, rfl⟩ | ⟨⟨hr, hv⟩, hst, rfl⟩ | ⟨⟨hr, hv⟩, hst, rfl⟩ := step_next h
  · exact step_of_rst (hrst.symm.trans hr)
  · obtain ⟨hvalid, hlevels⟩ := hkind hr
    obtain ⟨hclk, hsda⟩ := hlevels hv
    simp only [State.sampledEvent, hclk, hsda]
    exact (step_of_isSample (s := { s with inputs := q :: qs })
      ⟨hrst.symm.trans hr, hvalid.symm.trans hv⟩).trans (guarded_of_steppable hst _)
  · obtain ⟨hvalid, -⟩ := hkind hr
    exact (step_of_isIdle (s := { s with inputs := q :: qs })
      ⟨hrst.symm.trans hr, hvalid.symm.trans hv⟩).trans (guarded_of_steppable hst _)

/-- Settles O38, by induction on the two streams; past their end both runs are one. -/
theorem onlyTheSelectedLevelsMatter : Obligations.OnlyTheSelectedLevelsMatter := by
  intro n s t ps qs hpq hrun
  induction hpq generalizing n s with
  | nil => exact ⟨t, hrun, rfl, rfl⟩
  | @cons p q ps qs hagree _ ih =>
    cases n with
    | zero =>
      obtain rfl := Host.Outcome.next.inj hrun
      exact ⟨_, rfl, rfl, rfl⟩
    | succ n =>
      obtain ⟨s₁, hstep, hrest⟩ := run_succ_next hrun
      obtain rfl : s₁.inputs = ps := step_inputs hstep
      obtain ⟨u, hu, hsame⟩ := ih n s₁ hrest
      exact ⟨u, (run_of_next (step_of_agrees hstep hagree qs) n).trans hu, hsame⟩

/-! ## Equal selects -/

/-- With one level for both lines, before the sample and in it, no row with an event is selected (R75 item 4). -/
theorem wholeStep_event_of_equal_levels {b : BusState} (h : b.lastClk = b.lastSda) (v : Bool) :
    (wholeStep b v v).2 = .none := by
  cases hl : b.lastSda <;> cases v <;> simp [wholeStep, h, hl]

/-- Equal last levels are those of one line. -/
theorem eq_setLevels_of_equal_levels {b : BusState} (h : b.lastClk = b.lastSda) :
    b = b.setLevels b.lastClk b.lastClk := by
  obtain ⟨lc, ls, br, v, ap⟩ := b
  obtain rfl : lc = ls := h
  rfl

/-- An edge with equal selects, from equal last levels, writes only these, and both alike. -/
theorem step_of_equal_selects {s t : State} (h : step s = .next t) (hr : s.fetch.rst = false)
    (hsel : s.fetch.sclSel = s.fetch.sdaSel) (hlast : s.bus.lastClk = s.bus.lastSda) :
    (∃ v, t.bus = s.bus.setLevels v v) ∧ (t.out.read = .ok none ∨ t.out.read = .ok (some .none)) := by
  obtain ⟨hrst, -⟩ | ⟨-, -, rfl⟩ | ⟨-, -, rfl⟩ := step_next h
  · simp [hr] at hrst
  · have hlevels : s.fetch.sda = s.fetch.clk := by rw [Pins.sda, Pins.clk, hsel]
    have hnone : s.sampledEvent = .none := by
      rw [State.sampledEvent, hlevels]
      exact wholeStep_event_of_equal_levels hlast _
    refine ⟨⟨s.fetch.clk, ?_⟩, .inr ?_⟩
    · simp only [hnone, after_none, hlevels]
    · simp only [hnone, read_record]
  · exact ⟨⟨_, eq_setLevels_of_equal_levels hlast⟩, .inl (read_expire _)⟩

/-- Over a run of such edges the last levels alone change, and stay equal. -/
theorem runs_of_equal_selects {s t : State} (hlast : s.bus.lastClk = s.bus.lastSda)
    (h : Runs (fun p _ => p.rst = false ∧ p.sclSel = p.sdaSel) s t) : ∃ v, t.bus = s.bus.setLevels v v := by
  induction h with
  | refl => exact ⟨_, eq_setLevels_of_equal_levels hlast⟩
  | tail _ hstep hedge ih =>
    obtain ⟨v, hv⟩ := ih
    obtain ⟨⟨w, hw⟩, -⟩ := step_of_equal_selects hstep hedge.1 hedge.2 (by simp [hv])
    exact ⟨w, by rw [hw, hv]; rfl⟩

/-- Settles O39: the run and the last edge write only the last levels, and that edge's event is `None`. -/
theorem equalSelectsDecodeNothing : Obligations.EqualSelectsDecodeNothing := by
  intro s t u hlast hruns hstep hr hsel
  obtain ⟨v, hv⟩ := runs_of_equal_selects hlast hruns
  obtain ⟨⟨w, hw⟩, hread⟩ := step_of_equal_selects hstep hr hsel (by simp [hv])
  simp [hw, hv, hread]

end Sys2Proof.Machine

/-! PROOFS. The statements on the transactions (spec/41_transaction_fsm.md): first when a SAMPLE answers each of its
events, then the rows, their frames, and what stands over several edges. -/

namespace Sys2Proof.Machine

/-! ## When the whole step answers each event -/

/-- What R79 to R88 write after "That is": the edges, levels and counter on which a sample with these levels answers
the event, and the payload that an acknowledgement carries. `None` has what is left (R86, R87, R89 to R92). -/
def BusState.EventCondition (b : BusState) (cc cs : Bool) : Event → Prop
  | .start => falling b.lastSda cs = true ∧ cc = true ∧ b.lastClk = true
  | .stop => rising b.lastSda cs = true ∧ cc = true ∧ b.lastClk = true
  | .bit v => rising b.lastClk cc = true ∧ cs = v ∧ b.lastSda = v ∧ 0 < b.bitsRemaining.toNat
  | .nack p => decodeOfR93 b = p ∧ rising b.lastClk cc = true ∧ cs = true ∧ b.lastSda = true ∧
      b.bitsRemaining.toNat = 0
  | .ack p => decodeOfR93 b = p ∧ rising b.lastClk cc = true ∧ cs = false ∧ b.lastSda = false ∧
      b.bitsRemaining.toNat = 0
  | .none => cc = false ∨ (b.lastClk = true ↔ b.lastSda = cs)

/-- The event of a sample meets its condition: one case for each way of the two lines, two where a counter is read. -/
theorem wholeStep_meets_eventCondition (b : BusState) (cc cs : Bool) :
    b.EventCondition cc cs (wholeStep b cc cs).2 := by
  obtain hn | hn := Nat.eq_zero_or_pos b.bitsRemaining.toNat <;>
    cases hlc : b.lastClk <;> cases hls : b.lastSda <;> cases cc <;> cases cs <;>
    simp [wholeStep, BusState.EventCondition, rising, falling, hlc, hls, hn]

/-- Each event of a sample comes exactly on its condition. -/
theorem wholeStep_event_iff (b : BusState) (cc cs : Bool) (e : Event) :
    (wholeStep b cc cs).2 = e ↔ b.EventCondition cc cs e := by
  constructor
  · rintro rfl
    exact wholeStep_meets_eventCondition b cc cs
  · intro h
    cases e with
    | start =>
      obtain ⟨hfall, rfl, hlc⟩ := h
      obtain ⟨hls, rfl⟩ := (falling_iff _ _).1 hfall
      simp [wholeStep, hlc, hls]
    | stop =>
      obtain ⟨hrise, rfl, hlc⟩ := h
      obtain ⟨hls, rfl⟩ := (rising_iff _ _).1 hrise
      simp [wholeStep, hlc, hls]
    | bit v =>
      obtain ⟨hrise, rfl, hls, hn⟩ := h
      obtain ⟨hlc, rfl⟩ := (rising_iff _ _).1 hrise
      cases cs <;> simp [wholeStep, hlc, hls, hn]
    | nack p =>
      obtain ⟨hp, hrise, rfl, hls, hn⟩ := h
      obtain ⟨hlc, rfl⟩ := (rising_iff _ _).1 hrise
      simp [wholeStep, hlc, hls, hn, hp]
    | ack p =>
      obtain ⟨hp, hrise, rfl, hls, hn⟩ := h
      obtain ⟨hlc, rfl⟩ := (rising_iff _ _).1 hrise
      simp [wholeStep, hlc, hls, hn, hp]
    | none =>
      obtain rfl | hiff := h
      · simp [wholeStep]
      · cases hlc : b.lastClk <;> cases cs <;> simp_all [wholeStep]

/-! ## The record of an acknowledgement -/

/-- The acknowledgement decode, written as in R93 and as the model's `decodeByte`. -/
theorem decodeOfR93_eq_decodeByte (b : BusState) : decodeOfR93 b = b.decodeByte := rfl

theorem decodeByte_byte (b : BusState) : b.decodeByte.byte = b.value := by
  cases h : b.addressPhase <;> simp [BusState.decodeByte, h]

/-- The table of R105 gives the record of an event whose payload, if it has one, is of the byte `v`. -/
theorem encodeOfR105_eq_record {v : BitVec 8} {e : Event}
    (h : ∀ p, e = .ack p ∨ e = .nack p → p.byte = v) : encodeOfR105 v e = e.record := by
  cases e with
  | bit b => cases b <;> rfl
  | ack p =>
    obtain rfl := h p (.inl rfl)
    cases p <;> rfl
  | nack p =>
    obtain rfl := h p (.inr rfl)
    cases p <;> rfl
  | _ => rfl

/-- A sample acknowledges the byte as it was before the step. -/
theorem payload_byte_of_wholeStep {b : BusState} {cc cs : Bool} {p : Payload}
    (h : (wholeStep b cc cs).2 = .ack p ∨ (wholeStep b cc cs).2 = .nack p) : p.byte = b.value := by
  obtain h | h := h <;>
  · obtain ⟨rfl, -⟩ := (wholeStep_event_iff _ _ _ _).1 h
    rw [decodeOfR93_eq_decodeByte, decodeByte_byte]

/-! ## One SAMPLE -/

/-- Settles O8: SAMPLE is the whole step behind the guard, and the record of its event is the row of R105. -/
theorem sampleIsTheWholeStep : Obligations.SampleIsTheWholeStep := by
  intro l c d s hs
  rw [encodeOfR105_eq_record fun _ => payload_byte_of_wholeStep]
  exact (execSample_eq_wholeStep l c d s).trans (guarded_of_steppable hs _)

/-- Settles O37: the event that is read is the one of the whole step, which comes exactly on its condition. -/
theorem eventsComeExactlyOnTheirEdges : Obligations.EventsComeExactlyOnTheirEdges := by
  rintro l c d s t _ h rfl
  have hread : ∀ x, t.out.read = .ok (some x) ↔
      s.bus.EventCondition (l.getLsbD c.toNat) (l.getLsbD d.toNat) x := by
    intro x
    obtain ⟨-, ht⟩ := guarded_next ((execSample_eq_wholeStep l c d s).symm.trans h)
    rw [← Host.Outcome.next.inj ht, read_record, Except.ok.injEq, Option.some.injEq, wholeStep_event_iff]
  exact ⟨hread .start, hread .stop, hread (.bit true), hread (.bit false),
    (hread _).trans (and_iff_right rfl), (hread _).trans (and_iff_right rfl)⟩


/-! ## The rows -/

/-- A row is performed where the state has the four of its bits that are not of the sample (R55, R56). -/
theorem performRow_of_bits {s : State} {lc cc ls cs bz ap : Bool} (hs : s.Steppable) (hlc : s.bus.lastClk = lc)
    (hls : s.bus.lastSda = ls) (hbz : bz = decide (s.bus.bitsRemaining = 0)) (hap : ap = s.bus.addressPhase)
    (b : BusState) (e : Event) :
    s.performRow ⟨lc, cc, ls, cs, bz, ap⟩ b e
      = .next { s with bus := b.setLevels cc cs, out := e.record } :=
  performRow_of_selected hs ((decodeBits_eq_iff s.bus _).2 ⟨hlc.symm, hls.symm, hbz, hap⟩) b e

/-- `bz` inside a byte (R55). -/
theorem bz_of_pos {n : BitVec 4} (h : 0 < n.toNat) : false = decide (n = 0) :=
  (decide_eq_false (by rintro rfl; simp at h)).symm

/-- `bz` at an acknowledgement slot (R55). -/
theorem bz_of_zero {n : BitVec 4} (h : n = 0) : true = decide (n = 0) :=
  (decide_eq_true h).symm

/-- BusState with every field but the byte known. -/
theorem setLevels_eq {b : BusState} {n : BitVec 4} {ap : Bool} (hn : b.bitsRemaining = n)
    (hap : b.addressPhase = ap) (cc cs : Bool) : b.setLevels cc cs = ⟨cc, cs, n, b.value, ap⟩ := by
  subst hn hap
  rfl

/-- Levels that are written again as they were. -/
theorem setLevels_last {b : BusState} {lc ls : Bool} (hlc : b.lastClk = lc) (hls : b.lastSda = ls) :
    b.setLevels lc ls = b := by
  subst hlc hls
  rfl

theorem record_ack_addressPayload (b : BusState) :
    Event.record (.ack b.addressPayload) = ⟨true, 4, true, b.value⟩ := by
  simp [Event.record, Event.code, Event.kind, Event.byte]

theorem record_nack_addressPayload (b : BusState) :
    Event.record (.nack b.addressPayload) = ⟨true, 5, true, b.value⟩ := by
  simp [Event.record, Event.code, Event.kind, Event.byte]

/-- Settles O9: the row's record and the newly armed byte stand written out. -/
theorem startArmsAnAddressByte : Obligations.StartArmsAnAddressByte :=
  fun _ _ _ hs hlc hls hbz hap => performRow_of_bits hs hlc hls hbz hap _ _

/-- Settles O10: the position counted down to is one below the counter. -/
theorem bitOneCountsAndSetsItsPosition : Obligations.BitOneCountsAndSetsItsPosition := by
  intro ap s hs hlc hls hpos hap
  have hleft : (s.bus.bitsRemaining - 1).toNat = s.bus.bitsRemaining.toNat - 1 := toNat_sub_one hpos
  refine ⟨_, performRow_of_bits hs hlc hls (bz_of_pos hpos) hap _ _, hleft, ?_, rfl, rfl, rfl, rfl, rfl, rfl⟩
  rw [setLevels_value, receiveOne_value, hleft]

/-- Settles O11: the payload's byte is the one of the state, and of BusState only the last levels are written. -/
theorem nackOfAnAddressKeepsTheByte : Obligations.NackOfAnAddressKeepsTheByte := by
  intro s hs hlc hls hzero hap
  rw [← record_nack_addressPayload, ← setLevels_eq hzero hap]
  exact performRow_of_bits hs hlc hls (bz_of_zero hzero) hap.symm _ _

/-- Settles O12: as for an address, but the record of a data payload is the byte itself. -/
theorem nackOfDataKeepsTheByte : Obligations.NackOfDataKeepsTheByte := by
  intro s hs hlc hls hzero hap
  rw [← setLevels_eq hzero hap]
  exact performRow_of_bits hs hlc hls (bz_of_zero hzero) hap.symm _ _

/-- Settles O13: the counter alone is written beside the last levels. -/
theorem bitZeroCountsAndLeavesTheByte : Obligations.BitZeroCountsAndLeavesTheByte :=
  fun _ _ hs hlc hls hpos hap => ⟨_, performRow_of_bits hs hlc hls (bz_of_pos hpos) hap _ _, toNat_sub_one hpos,
    rfl, rfl, rfl, rfl, rfl, rfl, rfl⟩

/-- Settles O14: the payload is that of the byte before it is armed anew. -/
theorem ackOfAnAddressArmsADataByte : Obligations.AckOfAnAddressArmsADataByte := by
  intro s hs hlc hls hzero hap
  rw [← record_ack_addressPayload]
  exact performRow_of_bits hs hlc hls (bz_of_zero hzero) hap.symm _ _

/-- Settles O15: the record of a data payload is the byte itself, before it is armed anew. -/
theorem ackOfDataArmsADataByte : Obligations.AckOfDataArmsADataByte :=
  fun _ hs hlc hls hzero hap => performRow_of_bits hs hlc hls (bz_of_zero hzero) hap.symm _ _

/-- Settles O16: both glitch rows hand on BusState as it is. -/
theorem glitchRowsWriteOnlyTheLastLevels : Obligations.GlitchRowsWriteOnlyTheLastLevels :=
  fun _ _ _ hs hlc hbz hap =>
    ⟨fun hls => performRow_of_bits hs hlc hls hbz hap _ _, fun hls => performRow_of_bits hs hlc hls hbz hap _ _⟩

/-- Settles O17: STOP hands on BusState as it is. -/
theorem stopWritesOnlyTheLastLevels : Obligations.StopWritesOnlyTheLastLevels :=
  fun _ _ _ hs hlc hls hbz hap => performRow_of_bits hs hlc hls hbz hap _ _

/-- Settles O18: the rows' own `lastSda` is the state's, whatever it is. -/
theorem lowClockRowsWriteOnlyTheLastLevels : Obligations.LowClockRowsWriteOnlyTheLastLevels :=
  fun _ _ _ _ hs hbz hap =>
    ⟨fun hlc => performRow_of_bits hs hlc rfl hbz hap _ _, fun hlc => performRow_of_bits hs hlc rfl hbz hap _ _⟩

/-- Settles O19: the levels that these rows write are the last ones. -/
theorem steadyHighClockRowsKeepBusState : Obligations.SteadyHighClockRowsKeepBusState := by
  intro bz ap s hs hlc hbz hap
  have hrow (cs : Bool) (hls : s.bus.lastSda = cs) :
      s.performRow ⟨true, true, cs, cs, bz, ap⟩ s.bus .none = .next { s with out := Event.record .none } := by
    rw [performRow_of_bits hs hlc hls hbz hap, setLevels_last hlc hls]
  exact ⟨hrow false, hrow true⟩

/-! ## Frames -/

/-- A row that hands on BusState as it is writes only the last levels and the event registers. -/
theorem performRow_bus_frame {s t : State} {d : DwBits} {e : Event} (h : s.performRow d s.bus e = .next t) :
    t.bus.bitsRemaining = s.bus.bitsRemaining ∧ t.bus.value = s.bus.value ∧
      t.bus.addressPhase = s.bus.addressPhase ∧ t.resetSeen = s.resetSeen ∧ t.inputs = s.inputs := by
  obtain ⟨-, -, rfl⟩ := performRow_next h
  exact ⟨rfl, rfl, rfl, rfl, rfl⟩

/-- Settles O20: each of the nine rows hands on BusState as it is. -/
theorem frameOfRowsThatWriteOnlyTheLastLevels : Obligations.FrameOfRowsThatWriteOnlyTheLastLevels := by
  rintro i s t (rfl | rfl | ⟨bz, ap, rfl⟩ | ⟨bz, ap, rfl⟩ | ⟨bz, ap, rfl⟩ | ⟨ls, cs, bz, ap, rfl⟩ |
    ⟨ls, cs, bz, ap, rfl⟩ | ⟨bz, ap, rfl⟩ | ⟨bz, ap, rfl⟩) h <;> exact performRow_bus_frame h

/-- Settles O21: of BusState, counting a bit leaves the address phase, and a 0 the byte too; no row touches the
model's own fields. -/
theorem frameOfRowsThatWriteTheByte : Obligations.FrameOfRowsThatWriteTheByte := by
  refine fun s t => ⟨fun ap h => ?_, fun ap h => ?_, ?_⟩
  · obtain ⟨-, -, rfl⟩ := performRow_next h
    exact ⟨rfl, rfl, rfl⟩
  · obtain ⟨-, -, rfl⟩ := performRow_next h
    exact ⟨rfl, rfl, rfl, rfl⟩
  · rintro i (rfl | rfl | ⟨bz, ap, rfl⟩) h <;>
    · obtain ⟨-, -, rfl⟩ := performRow_next h
      exact ⟨rfl, rfl⟩

/-! ## One SAMPLE of a known event -/

/-- In a state that may be stepped a SAMPLE completes, with what its event says, and again in such a state. -/
theorem exec_sample_of_eventCondition {s : State} {l : Levels} {c d : Sel} {cc cs : Bool} {e : Event}
    (hs : s.Steppable) (hc : l.getLsbD c.toNat = cc) (hd : l.getLsbD d.toNat = cs)
    (he : s.bus.EventCondition cc cs e) :
    ∃ t, exec (.sample l c d) s = .next t ∧ t.Steppable ∧ t.bus = (s.bus.after e).setLevels cc cs ∧
      t.out.read = .ok (some e) := by
  subst hc hd
  have hevent := (wholeStep_event_iff _ _ _ _).2 he
  refine ⟨_, (execSample_eq_wholeStep l c d s).trans (guarded_of_steppable hs _), ⟨hs.1, ?_⟩, ?_, ?_⟩
  · rw [wholeStep_bus, hevent]
    refine after_bitsRemaining_le hs.2 ?_
    rintro v rfl
    exact bitsRemaining_pos_of_wholeStep_bit hevent
  · rw [wholeStep_bus, hevent]
  · rw [read_record, hevent]

/-- The event of a rising SCL with SDA stable: a bit inside a byte, an acknowledgement at its slot. -/
def BusState.riseEvent (b : BusState) : Event :=
  if 0 < b.bitsRemaining.toNat then .bit b.lastSda
  else if b.lastSda = true then .nack (decodeOfR93 b)
  else .ack (decodeOfR93 b)

theorem riseEvent_of_pos {b : BusState} {v : Bool} (hls : b.lastSda = v) (hn : 0 < b.bitsRemaining.toNat) :
    b.riseEvent = .bit v := by
  rw [BusState.riseEvent, if_pos hn, hls]

theorem riseEvent_nack {b : BusState} (hls : b.lastSda = true) (hn : b.bitsRemaining.toNat = 0) :
    b.riseEvent = .nack (decodeOfR93 b) := by
  simp [BusState.riseEvent, hls, hn]

theorem riseEvent_ack {b : BusState} (hls : b.lastSda = false) (hn : b.bitsRemaining.toNat = 0) :
    b.riseEvent = .ack (decodeOfR93 b) := by
  simp [BusState.riseEvent, hls, hn]

/-- Every stable rise of SCL has this event. -/
theorem eventCondition_riseEvent {b : BusState} {v : Bool} (hlc : b.lastClk = false) (hls : b.lastSda = v) :
    b.EventCondition true v b.riseEvent := by
  have hrise : rising b.lastClk true = true := (rising_iff _ _).2 ⟨hlc, rfl⟩
  obtain hn | hn := Nat.eq_zero_or_pos b.bitsRemaining.toNat
  · cases v
    · rw [riseEvent_ack hls hn]
      exact ⟨rfl, hrise, rfl, hls, hn⟩
    · rw [riseEvent_nack hls hn]
      exact ⟨rfl, hrise, rfl, hls, hn⟩
  · rw [riseEvent_of_pos hls hn]
    exact ⟨hrise, rfl, hls, hn⟩

/-- A change of SDA while SCL stays high is a START or a STOP. -/
theorem eventCondition_start {b : BusState} (hlc : b.lastClk = true) (hls : b.lastSda = true) :
    b.EventCondition true false .start :=
  ⟨(falling_iff _ _).2 ⟨hls, rfl⟩, rfl, hlc⟩

theorem eventCondition_stop {b : BusState} (hlc : b.lastClk = true) (hls : b.lastSda = false) :
    b.EventCondition true true .stop :=
  ⟨(rising_iff _ _).2 ⟨hls, rfl⟩, rfl, hlc⟩

/-! ## The rise before a STOP or a repeated START -/

/-- Settles O45: the first sample is a stable rise with SDA low, whose levels are those that a STOP starts from. -/
theorem riseBeforeAStopIsSampled : Obligations.RiseBeforeAStopIsSampled := by
  intro l₁ l₂ c d s hs hlc hls hc₁ hd₁ hc₂ hd₂
  obtain ⟨t, ht, hst, hbus, hread⟩ :=
    exec_sample_of_eventCondition hs hc₁ hd₁ (eventCondition_riseEvent hlc hls)
  have hlc' : t.bus.lastClk = true := by rw [hbus, setLevels_lastClk]
  have hls' : t.bus.lastSda = false := by rw [hbus, setLevels_lastSda]
  obtain ⟨u, hu, -, hubus, huread⟩ :=
    exec_sample_of_eventCondition hst hc₂ hd₂ (eventCondition_stop hlc' hls')
  rw [after_stop] at hubus
  refine ⟨t, u, ht, hu, huread, ?_, fun hpos => ?_, fun hzero => ?_⟩
  · rw [hubus, hbus]
    rfl
  · rw [riseEvent_of_pos hls hpos] at hbus hread
    refine ⟨hread, ?_, by simp [hubus, hbus]⟩
    simp only [hubus, hbus, setLevels_bitsRemaining, after_bit_bitsRemaining, toNat_sub_one hpos]
    omega
  · rw [riseEvent_ack hls hzero] at hbus hread
    exact ⟨hread, by simp [hubus, hbus]⟩

/-- Settles O46: the first sample is a stable rise with SDA high, whose levels are those that a START starts from. -/
theorem riseBeforeARepeatedStartIsSampled : Obligations.RiseBeforeARepeatedStartIsSampled := by
  intro l₁ l₂ c d s hs hlc hls hc₁ hd₁ hc₂ hd₂
  obtain ⟨t, ht, hst, hbus, hread⟩ :=
    exec_sample_of_eventCondition hs hc₁ hd₁ (eventCondition_riseEvent hlc hls)
  have hlc' : t.bus.lastClk = true := by rw [hbus, setLevels_lastClk]
  have hls' : t.bus.lastSda = true := by rw [hbus, setLevels_lastSda]
  obtain ⟨u, hu, -, hubus, huread⟩ :=
    exec_sample_of_eventCondition hst hc₂ hd₂ (eventCondition_start hlc' hls')
  refine ⟨t, u, ht, hu, fun hpos => ?_, fun hzero => ?_, huread, by simp [hubus]⟩
  · rw [hread, riseEvent_of_pos hls hpos]
  · rw [hread, riseEvent_nack hls hzero]

/-! ## An acknowledgement slot that stays open -/

@[simp] theorem decodeOfR93_setLevels (b : BusState) (c d : Bool) :
    decodeOfR93 (b.setLevels c d) = decodeOfR93 b := rfl

/-- A step leads only to states that a RESET has preceded. -/
theorem step_resetSeen {s t : State} (h : step s = .next t) : t.resetSeen = true := by
  obtain ⟨-, rfl⟩ | ⟨-, hst, rfl⟩ | ⟨-, hst, rfl⟩ := step_next h
  · rfl
  · exact hst.1
  · exact hst.1

/-- The edge that left an event met the event's condition. -/
theorem eventCondition_of_read {s t : State} {e : Event} (h : step s = .next t)
    (ho : t.out.read = .ok (some e)) : s.bus.EventCondition s.fetch.clk s.fetch.sda e := by
  obtain ⟨-, rfl⟩ | ⟨-, -, rfl⟩ | ⟨-, -, rfl⟩ := step_next h
  · simp at ho
  · refine (wholeStep_event_iff _ _ _ _).1 ?_
    simpa using ho
  · simp at ho

/-- At an acknowledgement slot no bit is received, so an edge that arms no byte writes only the last levels. -/
theorem step_bus_at_slot {s t : State} (h : step s = .next t) (hkeep : KeepsByte s.fetch t)
    (hslot : s.bus.bitsRemaining = 0) : ∃ c d, t.bus = s.bus.setLevels c d := by
  obtain ⟨hr, o, ho, hnone⟩ := hkeep
  cases o with
  | none => exact ⟨_, _, (step_bus_of_read_none h hr ho).trans (setLevels_last rfl rfl).symm⟩
  | some e =>
    obtain ⟨hbus, hbit⟩ := step_bus_of_read_some h ho
    have harms := hnone e rfl
    cases e with
    | bit v => simp [hslot] at hbit
    | start => cases harms
    | ack p => cases harms
    | _ => exact ⟨_, _, hbus⟩

/-- Until a byte is armed the slot stays open, and the byte and the address phase are kept with it (R96). -/
theorem runs_bus_at_slot {s t : State} (h : Runs KeepsByte s t) (hslot : s.bus.bitsRemaining = 0) :
    ∃ c d, t.bus = s.bus.setLevels c d := by
  induction h with
  | refl => exact ⟨_, _, (setLevels_last rfl rfl).symm⟩
  | tail _ hstep hkeep ih =>
    obtain ⟨c, d, hbus⟩ := ih
    obtain ⟨c', d', hbus'⟩ := step_bus_at_slot hstep hkeep (by rw [hbus, setLevels_bitsRemaining, hslot])
    exact ⟨c', d', by rw [hbus', hbus]; rfl⟩

theorem runs_resetSeen {P : Pins → State → Prop} {s t : State} (h : Runs P s t) (hs : s.resetSeen = true) :
    t.resetSeen = true := by
  cases h with
  | refl => exact hs
  | tail _ hstep _ => exact step_resetSeen hstep

theorem runs_mono {P Q : Pins → State → Prop} (hPQ : ∀ p u, P p u → Q p u) {s t : State} (h : Runs P s t) :
    Runs Q s t := by
  induction h with
  | refl => exact .refl _
  | tail _ hstep hedge ih => exact ih.tail hstep (hPQ _ _ hedge)

/-- A stable rise of SCL at an open slot acknowledges the byte: a NACK leaves the slot as it was, an ACK arms a data
byte. -/
theorem exec_sample_at_slot {s : State} {l : Levels} {c d : Sel} (hseen : s.resetSeen = true)
    (hslot : s.bus.bitsRemaining = 0) (hlc : s.bus.lastClk = false) (hc : l.getLsbD c.toNat = true)
    (hd : l.getLsbD d.toNat = s.bus.lastSda) :
    ∃ t, exec (.sample l c d) s = .next t ∧
      (s.bus.lastSda = true → t.out.read = .ok (some (.nack (decodeOfR93 s.bus))) ∧
        t.bus = s.bus.setLevels true true) ∧
      (s.bus.lastSda = false → t.out.read = .ok (some (.ack (decodeOfR93 s.bus))) ∧
        t.bus = (s.bus.openByte false).setLevels true false) := by
  have hzero : s.bus.bitsRemaining.toNat = 0 := by rw [hslot]; rfl
  obtain ⟨t, ht, -, hbus, hread⟩ := exec_sample_of_eventCondition ⟨hseen, by omega⟩ hc hd
    (eventCondition_riseEvent hlc rfl)
  refine ⟨t, ht, fun hls => ?_, fun hls => ?_⟩
  · rw [riseEvent_nack hls hzero] at hbus hread
    exact ⟨hread, by rw [hbus, hls, after_nack]⟩
  · rw [riseEvent_ack hls hzero] at hbus hread
    exact ⟨hread, by rw [hbus, hls, after_ack]⟩

/-- A NACK leaves an open slot of the byte that it acknowledged (R96). -/
theorem slot_of_read_nack {r s : State} {p : Payload} (h : step r = .next s)
    (ho : s.out.read = .ok (some (.nack p))) : s.bus.bitsRemaining = 0 ∧ decodeOfR93 s.bus = p := by
  obtain ⟨hp, -, -, -, hzero⟩ := eventCondition_of_read h ho
  obtain ⟨hbus, -⟩ := step_bus_of_read_some h ho
  rw [hbus, after_nack]
  exact ⟨BitVec.eq_of_toNat_eq hzero, hp⟩

/-- Settles O44: the NACK left an open slot, which the edges after it keep, and with it the payload. -/
theorem nackKeepsTheAcknowledgementSlotOpen : Obligations.NackKeepsTheAcknowledgementSlotOpen := by
  intro r s t p l c d hstep hread hruns
  obtain ⟨hsslot, hsp⟩ := slot_of_read_nack hstep hread
  obtain ⟨c', d', hbus⟩ := runs_bus_at_slot hruns hsslot
  have hslot : t.bus.bitsRemaining = 0 := by rw [hbus, setLevels_bitsRemaining, hsslot]
  have hp : decodeOfR93 t.bus = p := by rw [hbus, decodeOfR93_setLevels, hsp]
  refine ⟨hslot, by simp [hbus], by simp [hbus], fun hlc hc hd => ?_⟩
  obtain ⟨u, hu, hnack, hack⟩ :=
    exec_sample_at_slot (runs_resetSeen hruns (step_resetSeen hstep)) hslot hlc hc hd
  rw [hp] at hnack hack
  refine ⟨u, hu, fun hls => (hnack hls).1, fun hls => ?_⟩
  obtain ⟨huread, hubus⟩ := hack hls
  exact ⟨huread, by simp [hubus]⟩

/-- An edge that is no RESET and whose record, if any, is `None` or Stop arms no byte. -/
theorem keepsByte_of_read {p : Pins} {u : State} (hr : p.rst = false)
    (h : u.out.read = .ok none ∨ u.out.read = .ok (some .none) ∨ u.out.read = .ok (some .stop)) :
    KeepsByte p u := by
  obtain h | h | h := h <;> exact ⟨hr, _, h, by simp [Event.armsByte]⟩

/-- Settles O41: the reset state is at the slot of an empty data byte, and the edges before the rise keep it. -/
theorem firstRiseBeforeAnyStartAcknowledgesAnEmptyByte :
    Obligations.FirstRiseBeforeAnyStartAcknowledgesAnEmptyByte := by
  intro ins s l c d hruns hlc hc hd
  have hkeeps := runs_mono (fun _ _ h => keepsByte_of_read h.1 h.2) hruns
  obtain ⟨c', d', hbus⟩ := runs_bus_at_slot hkeeps rfl
  have hempty : decodeOfR93 s.bus = .data 0 := by rw [hbus]; rfl
  obtain ⟨t, ht, hnack, hack⟩ :=
    exec_sample_at_slot (runs_resetSeen hruns rfl) (by rw [hbus]; rfl) hlc hc hd
  rw [hempty] at hnack hack
  refine ⟨t, ht, fun hls => ?_, fun hls => ?_⟩
  · obtain ⟨hread, htbus⟩ := hack hls
    exact ⟨hread, by simp [htbus]⟩
  · obtain ⟨hread, htbus⟩ := hnack hls
    rw [htbus, hbus]
    exact ⟨hread, rfl, rfl, rfl⟩

end Sys2Proof.Machine

/-! PROOFS. The statements on the cycle operations and the output (spec/42_cycle_and_output.md): first what RESET, IDLE
and SAMPLE write and leave, then the records, then IDLE edges before a SAMPLE. -/

namespace Sys2Proof.Machine

/-! ## RESET, IDLE and SAMPLE -/

/-- Settles O2: RESET reads nothing of the state, and its meaning has no guard. -/
theorem resetWritesEveryElementFromAnyState : Obligations.ResetWritesEveryElementFromAnyState :=
  fun _ _ => rfl

/-- IDLE lets the record expire, behind the guard (R103). -/
theorem exec_idle (s : State) : exec .idle s = s.guarded (.next { s with out := s.out.expire }) := rfl

/-- Settles O4: the guard lets IDLE through, and `expire` writes `ev_valid` alone. -/
theorem idleClearsOnlyEvValid : Obligations.IdleClearsOnlyEvValid :=
  fun s hs => (exec_idle s).trans (guarded_of_steppable hs _)

/-- Settles O22: what each operation answers, past its guard, is the state with the written fields replaced. -/
theorem frameOfCycleOperations : Obligations.FrameOfCycleOperations := by
  refine fun s t => ⟨fun h => ?_, fun sv h => ?_, fun l c d h => ?_⟩
  · obtain ⟨-, hnext⟩ := guarded_next ((exec_idle s).symm.trans h)
    obtain rfl := Host.Outcome.next.inj hnext
    exact ⟨rfl, rfl, rfl, rfl, rfl, rfl⟩
  · obtain rfl := Host.Outcome.next.inj h
    rfl
  · obtain ⟨-, hnext⟩ := guarded_next ((execSample_eq_wholeStep l c d s).symm.trans h)
    obtain rfl := Host.Outcome.next.inj hnext
    exact ⟨rfl, rfl⟩

/-! ## The records of events -/

/-- Only `None` has code 0 (R60). -/
theorem code_eq_zero_iff (e : Event) : e.code = 0 ↔ e = .none := by
  cases e with
  | bit b => cases b <;> simp [Event.code]
  | _ => simp [Event.code]

/-- The direction bit is 1 for Read (R35, R44). -/
theorem toBool_eq_decide (d : Direction) : d.toBool = decide (d = .read) := by
  cases d <;> rfl

/-- An acknowledgement decodes an address exactly in the address phase (R93). -/
theorem decodeByte_kind (b : BusState) : b.decodeByte.kind = b.addressPhase := by
  cases h : b.addressPhase <;> simp [BusState.decodeByte, h]

/-- Settles O32: the table's rows stand in the definitions; no record has code 7 because each is one that R105
yields, and an acknowledged byte is put together again from its payload. -/
theorem eventRecordsFollowTheEncodingTable : Obligations.EventRecordsFollowTheEncodingTable := by
  refine ⟨rfl, rfl, rfl, rfl, rfl, fun e => (record_encoded e).1, fun b a d v => ?_⟩
  rw [← toBool_eq_decide]
  exact ⟨rfl, rfl, rfl, rfl, decodeByte_byte b, decodeByte_kind b⟩

/-- Settles O27: a RESET and an IDLE leave `ev_valid` 0, and a SAMPLE leaves the record of its event. -/
theorem eventRegistersHoldTheEventOfTheSampleEdge : Obligations.EventRegistersHoldTheEventOfTheSampleEdge := by
  intro s t h
  obtain ⟨hr, rfl⟩ | ⟨hs, -, rfl⟩ | ⟨hi, -, rfl⟩ := step_next h
  · simp [Pins.isSample, hr, EventRegs.reset]
  · refine ⟨iff_of_true rfl hs, ?_⟩
    rintro e rfl -
    rw [encodeOfR105_eq_record fun _ => payload_byte_of_wholeStep]
    exact ⟨rfl, code_eq_zero_iff _⟩
  · simp [Pins.isSample, hi.2]

/-! ## IDLE edges before a SAMPLE -/

theorem run_one (s : State) : Host.Core.run Sys2Proof.core 1 s = step s := by
  cases h : step s with
  | next t => exact run_of_next h 0
  | refused r => exact run_of_refused h 0
  | fault f => exact run_of_fault h 0

/-- A SAMPLE writes the event registers without reading them (R104). -/
theorem step_of_isSample_other_out {s : State} (h : s.fetch.isSample) (out : EventRegs) :
    step { s with out := out } = step s :=
  (step_of_isSample (s := { s with out := out }) h).trans (step_of_isSample h).symm

/-- Settles O42, by induction on the IDLE edges: where a step is allowed, an IDLE writes only the event registers, which
the SAMPLE overwrites; elsewhere the first IDLE and the SAMPLE meet the same guard. -/
theorem idleCyclesDoNotChangeTheNextSample : Obligations.IdleCyclesDoNotChangeTheNextSample := by
  intro idles p rest s hidles hp
  induction idles generalizing s with
  | nil => exact run_one _
  | cons q idles ih =>
    obtain ⟨hq, hidles⟩ := List.forall_mem_cons.1 hidles
    have hidle := step_of_isIdle (s := { s with inputs := q :: idles ++ p :: rest }) hq
    cases hwhy : s.refusal with
    | none =>
      have hgo := hidle.trans (guarded_of_steppable (refusal_eq_none.1 hwhy) _)
      exact (run_of_next hgo _).trans <| (ih { s with out := s.out.expire } hidles).trans <|
        step_of_isSample_other_out (s := { s with inputs := p :: rest }) hp s.out.expire
    | some why =>
      have hstop := hidle.trans (guarded_of_refusal hwhy _)
      have hsample := step_of_isSample (s := { s with inputs := p :: rest }) hp
      exact (run_of_refused hstop _).trans (hsample.trans (guarded_of_refusal hwhy _)).symm

end Sys2Proof.Machine

/-! PROOFS. The statement on exceptions (spec/60_exceptions.md section 1): no operation answers a fault, so no step does. -/

namespace Sys2Proof.Machine

/-- RESET has no guard and goes on; IDLE and SAMPLE go on behind the guard; every other operation is a row (R113). -/
theorem exec_ne_fault (i : Instr) (s : State) (f : Fault) : exec i s ≠ .fault f := by
  cases i with
  | reset sv => exact nofun
  | idle => exact guarded_ne_fault nofun
  | sample l c d => exact (execSample_eq_wholeStep l c d s).trans_ne (guarded_ne_fault nofun)
  | _ => exact performRow_ne_fault s _ _ _ f

/-- Settles O31: a step is one operation. -/
theorem nothingTheBlockDoesIsAFault : Obligations.NothingTheBlockDoesIsAFault :=
  ⟨exec_ne_fault, fun s => exec_ne_fault (decode s.fetch.code) s.advance⟩

end Sys2Proof.Machine

/-! PROOFS. The statements on reset (spec/70_reset_and_hazards.md section 1): the reset values, what runs before the
first RESET, and the first SAMPLE after it. -/

namespace Sys2Proof.Machine

/-- Settles O1: the listed values stand in the reset records. -/
theorem resetStateHoldsTheListedValues : Obligations.ResetStateHoldsTheListedValues :=
  ⟨rfl, rfl, rfl, rfl, rfl, rfl, rfl, rfl, rfl⟩

/-- The guard asks for a RESET first, whatever `bitsRemaining` is (R129). -/
theorem refusal_of_not_resetSeen {s : State} (h : s.resetSeen = false) : s.refusal = some .beforeFirstReset :=
  if_pos h

/-- Settles O28: every operation but RESET stands behind the guard; RESET has none and gives the reset registers. -/
theorem onlyResetRunsBeforeTheFirstReset : Obligations.OnlyResetRunsBeforeTheFirstReset := by
  intro s hseen
  refine ⟨fun i hi => ?_, fun sv => ⟨_, rfl, inv_of_reset_registers s.inputs⟩⟩
  obtain ⟨r, hr⟩ := exec_eq_guarded hi s
  rw [hr, guarded_of_refusal (refusal_of_not_resetSeen hseen)]

/-! ## The first SAMPLE after RESET -/

/-- The first sample runs the row of its two levels beside the reset values (R131). -/
theorem exec_sample_reset {l : Levels} {c d : Sel} {cc cs : Bool} (hc : l.getLsbD c.toNat = cc)
    (hd : l.getLsbD d.toNat = cs) :
    exec (.sample l c d) State.reset = exec (rowOf (BusState.reset.decodeBits cc cs)) State.reset := by
  subst hc hd
  exact execSample_eq_row l c d State.reset

/-- SCL that was high and is low selects SCL_FALL, whatever SDA is and was (R90). -/
theorem rowOf_sclFall (ls cs bz ap : Bool) : rowOf ⟨true, false, ls, cs, bz, ap⟩ = .sclFall ls cs bz ap := by
  cases ls <;> cases cs <;> rfl

/-- Against the idle bus of the reset state, only SDA low with SCL high is an event, the START (R133). -/
theorem eventCondition_reset (cc cs : Bool) :
    BusState.reset.EventCondition cc cs (if cc = true ∧ cs = false then .start else .none) := by
  cases cc with
  | false => exact .inl rfl
  | true =>
    cases cs with
    | false => exact eventCondition_start rfl rfl
    | true => exact .inr Iff.rfl

/-- Settles O40: two levels select the row beside the reset values, and the event of those levels is read. -/
theorem firstSampleIsComparedWithAnIdleBus : Obligations.FirstSampleIsComparedWithAnIdleBus := by
  intro l c d
  refine ⟨fun hc hd => exec_sample_reset hc hd, fun hc hd => exec_sample_reset hc hd, fun hc => ?_, ?_⟩
  · exact (exec_sample_reset hc rfl).trans (congrArg (exec · State.reset) (rowOf_sclFall true _ true false))
  · obtain ⟨t, ht, -, -, hread⟩ := exec_sample_of_eventCondition resetStateMeetsTheInvariant.steppable
      rfl rfl (eventCondition_reset (l.getLsbD c.toNat) (l.getLsbD d.toNat))
    exact ⟨t, ht, hread⟩

end Sys2Proof.Machine

/-! PROOFS. The statements on placed operations and on the end of the inputs (spec/30_encoding.md section 1,
spec/42_cycle_and_output.md sections 1 and 3): first what `withFetched` puts before the next edge, then the step of it. -/

namespace Sys2Proof.Machine

/-! ## The end of the inputs -/

/-- The advance past the end of the inputs changes nothing. -/
theorem advance_of_nil {s : State} (h : s.inputs = []) : s.advance = s := by
  rw [State.advance, h, List.tail_nil, ← h]

/-- Settles O6: an edge at which the host asserts nothing is an IDLE (R109), and there are no values for it to use up. -/
theorem stepPastTheInputsIsIdle : Obligations.StepPastTheInputsIsIdle := by
  intro s h
  have hidle : decode Pins.quiet.code = .idle := rfl
  rw [step, fetch_of_nil h, hidle, advance_of_nil h]

/-! ## The words of a placed operation -/

/-- No operation is ill-formed (R58), so its words always decode to it. -/
theorem decode_encode (i : Instr) : decode (encode i) = i :=
  decodeOfEncodeIsTheOperation i (by cases i <;> rfl)

/-- The control word is made of its two bits (R52). -/
theorem cwWord_bits (cw : Cw) : cwWord (cw.getLsbD 1) (cw.getLsbD 0) = cw := by
  revert cw; decide

/-- Input words put on the ports are the words read from them. -/
theorem pinsOf_code (cw : Cw) (sw : Levels) (cfg : Cfg) : (pinsOf cw sw cfg).code = .pins cw sw cfg := by
  rw [Pins.code, pinsOf, cwWord_bits, cfgWord_selects]

/-- A cycle operation is placed on the ports of the next edge. -/
theorem fetch_withFetched_of_pins {i : Instr} {cw : Cw} {sw : Levels} {cfg : Cfg}
    (h : encode i = .pins cw sw cfg) (s : State) : (s.withFetched i).fetch = pinsOf cw sw cfg := by
  simp [State.withFetched, h, State.fetch]

/-- A row is placed with a SAMPLE at the next edge. -/
theorem isSample_withFetched_of_dw {i : Instr} {w : Dw} (h : encode i = .dw w) (s : State) :
    (s.withFetched i).fetch.isSample := by
  simp [State.withFetched, h, State.fetch, Pins.ofSample, Pins.isSample]

/-- The sample that a row is placed with shows the word's current levels, SCL on pin 0 and SDA on pin 1. -/
theorem levels_withFetched_of_dw {i : Instr} {w : Dw} (h : encode i = .dw w) (s : State) :
    (s.withFetched i).fetch.clk = (dwBits w).currentClk ∧ (s.withFetched i).fetch.sda = (dwBits w).currentSda := by
  simp only [State.withFetched, h, State.fetch, Pins.ofSample]
  cases (dwBits w).currentClk <;> cases (dwBits w).currentSda <;> exact ⟨rfl, rfl⟩

/-- A counter other than 0 is left where the word says that bits remain. -/
theorem bitsRemaining_withFetched_of_dw {i : Instr} {w : Dw} (h : encode i = .dw w) (s : State) :
    decide ((s.withFetched i).bus.bitsRemaining = 0) = (dwBits w).bz := by
  simp only [State.withFetched, h]
  cases (dwBits w).bz with
  | true => rfl
  | false => by_cases hz : s.bus.bitsRemaining = 0#4 <;> simp [hz]

/-- The state and the sample that a row is placed with make up the row's decode word (R55). -/
theorem decodeBits_withFetched_of_dw {i : Instr} {w : Dw} (h : encode i = .dw w) (s : State) :
    (s.withFetched i).bus.decodeBits (s.withFetched i).fetch.clk (s.withFetched i).fetch.sda = dwBits w := by
  obtain ⟨hclk, hsda⟩ := levels_withFetched_of_dw h s
  rw [hclk, hsda, decodeBits_eq_iff, bitsRemaining_withFetched_of_dw h]
  simp [State.withFetched, h]

/-! ## The step of a placed operation -/

/-- A SAMPLE edge runs the row of the state's bits and the two levels presented (R77). -/
theorem step_eq_exec_rowOf {s : State} (h : s.fetch.isSample) :
    step s = exec (rowOf (s.bus.decodeBits s.fetch.clk s.fetch.sda)) s.advance := by
  obtain ⟨hrst, hvalid⟩ := h
  simp only [step, decode_code, hrst, hvalid]
  exact execSample_eq_row _ _ _ s.advance

/-- A placed operation is the one of the next step: it is on the ports, or it is the row that the sample selects. -/
theorem step_withFetched (s : State) (i : Instr) :
    step (s.withFetched i) = exec i (s.withFetched i).advance := by
  have hi := decode_encode i
  cases hw : encode i with
  | pins cw sw cfg => rw [step, fetch_withFetched_of_pins hw, pinsOf_code, ← hw, hi]
  | dw w =>
    have hrow : rowOf (dwBits w) = i := by rwa [hw, decode] at hi
    rw [step_eq_exec_rowOf (isSample_withFetched_of_dw hw s), decodeBits_withFetched_of_dw hw, hrow]

/-- Settles O55: placing a table number is placing the operation that it stands for. -/
theorem placedOperationIsTheOneRun : Obligations.PlacedOperationIsTheOneRun := by
  intro nbits w i s h
  have hplaced : s.withFetchWord nbits w = s.withFetched i := by rw [State.withFetchWord, h]
  rw [hplaced, step_withFetched]

end Sys2Proof.Machine
